-- ==== Sys2Proof/Word.lean ====
section
/-! DEFINITION. The widths of the block's words (00_scope R17, 30_encoding R120). -/

namespace Sys2Proof

/-- A byte of memory (20_memory R81). -/
abbrev Byte := BitVec 8

/-- A 16-bit word: a virtual address, a PC, a PSW, a register word, a vector (00_scope R17). -/
abbrev Word := BitVec 16

/-- A 32-bit word of the command port: the command word, an operand, a result (30_encoding R120). -/
abbrev Word32 := BitVec 32

/-- A device id: operand values are 32 bits wide (30_encoding R125). -/
abbrev DevId := BitVec 32

/-- An interrupt priority level, 0 to 7 (00_scope R8). -/
abbrev Level := BitVec 3

/-- The device id reserved for the block's own windows (30_encoding R125). -/
abbrev BLOCK : DevId := 0xFFFFFFFF#32

end Sys2Proof
end

