-- ==== Sys2Proof/Config.lean ====
section
/-! DEFINITION. The parameters of 00_scope R6 to R16: what is fixed when a block is built (70_reset R451),
and the free values: power-on memory and the answers of device handlers. -/

namespace Sys2Proof

/-- `PAW`, the physical address width (00_scope R6). -/
inductive PhysWidth
  | legacy18
  | extended22
  deriving DecidableEq, Repr

/-- The width in bits (00_scope R6). -/
def PhysWidth.bits : PhysWidth → Nat
  | .legacy18 => 18
  | .extended22 => 22

/-- `ODD_WORD_POLICY`: what a word access to an odd physical address does (00_scope R15). -/
inductive OddWordPolicy
  | refuse
  | alignDown
  deriving DecidableEq, Repr

/-- The names of the default trap table (60_exceptions R402); another table may use other names (00_scope R12). -/
inductive TrapName
  | red | odd | mme | nxm | par | prv | ill | bpt | iot | emt | trap | trc | yel | pwrfl | fpe
  | other (n : Nat)
  deriving DecidableEq, Repr

/-- One row of `TRAP_TABLE`: a slot's name and its fixed vector address (00_scope R12). -/
structure TrapEntry where
  name : TrapName
  vector : Word
  deriving DecidableEq, Repr

/-- The two access widths (20_memory R86). -/
inductive Width
  | word
  | byte
  deriving DecidableEq, Repr

/-- The parameters fixed at construction (00_scope R6 to R15). -/
structure Config where
  /-- `PAW` (R6). -/
  paw : PhysWidth
  /-- `ENFORCE_ODD` (R7). -/
  enforceOdd : Bool
  /-- `NSLOTS` (R10). -/
  nslots : Nat
  /-- `MEMSIZE` (R11). -/
  memSize : Nat
  /-- `TRAP_TABLE` of slots 0 to 14, in slot order, which is priority order (R12). -/
  trapTable : Vector TrapEntry 15
  /-- `PERSIST_SET` (R13); slot 15 cannot be in it. -/
  persistSet : List (Fin 15)
  /-- `SWI_VEC` of levels 1 to 7, level 1 first (R14). -/
  swiVec : Vector Word 7
  /-- `ODD_WORD_POLICY` (R15). -/
  oddWordPolicy : OddWordPolicy
  deriving DecidableEq, Repr

namespace Config

/-- The physical space has `2^PAW` bytes (20_memory R80). -/
def physTop (c : Config) : Nat := 2 ^ c.paw.bits

/-- `IOPAGE_BASE = 2^PAW - 8192` (00_scope R6). -/
def ioPageBase (c : Config) : Nat := 2 ^ c.paw.bits - 8192

/-- How many slots of the table carry a name. -/
def nameCount (c : Config) (n : TrapName) : Nat := (c.trapTable.toList.map TrapEntry.name).count n

/-- The first slot that carries a name (15 when none does). -/
def nameIndex (c : Config) (n : TrapName) : Nat := (c.trapTable.toList.map TrapEntry.name).idxOf n

/-- A choice of parameters that the spec admits: `NSLOTS` from 1 to 32 (R10), `MEMSIZE` even and at most
`IOPAGE_BASE` (R11), a trap table with one ODD, one MME and one NXM slot, MME above NXM (R12). -/
abbrev WF (c : Config) : Prop :=
  1 ≤ c.nslots ∧ c.nslots ≤ 32 ∧ c.memSize % 2 = 0 ∧ c.memSize ≤ c.ioPageBase ∧
  c.nameCount .odd = 1 ∧ c.nameCount .mme = 1 ∧ c.nameCount .nxm = 1 ∧
  c.nameIndex .mme < c.nameIndex .nxm ∧ c.persistSet.Nodup

/-- The default trap table (60_exceptions R402). -/
def defaultTrapTable : Vector TrapEntry 15 :=
  #v[⟨.red, 0o004#16⟩, ⟨.odd, 0o004#16⟩, ⟨.mme, 0o250#16⟩, ⟨.nxm, 0o004#16⟩, ⟨.par, 0o114#16⟩,
     ⟨.prv, 0o004#16⟩, ⟨.ill, 0o010#16⟩, ⟨.bpt, 0o014#16⟩, ⟨.iot, 0o020#16⟩, ⟨.emt, 0o030#16⟩,
     ⟨.trap, 0o034#16⟩, ⟨.trc, 0o014#16⟩, ⟨.yel, 0o004#16⟩, ⟨.pwrfl, 0o024#16⟩, ⟨.fpe, 0o244#16⟩]

/-- The default parameters (00_scope R6 to R15). -/
def default : Config where
  paw := .extended22
  enforceOdd := true
  nslots := 32
  memSize := 0x40000
  trapTable := defaultTrapTable
  persistSet := [5]
  swiVec := Vector.replicate 7 0o240#16
  oddWordPolicy := .refuse

/-- The default parameters at `PAW = 18` (00_scope R6, R11). -/
def legacy : Config := { default with paw := .legacy18, memSize := 0x3E000 }

/-- FREE VALUE (10_state R46, 70_reset R451, log 7). What main memory holds at power-on: pairs of an address and its byte.
Nothing constrains it. -/
opaque powerOnDraw : List (Nat × Byte)

/-- FREE VALUE (00_scope R16, log 8). What the handler `DevRead(dev, offset, width)` answers on the block's
`n`-th call of a handler: a value, or `none` for `Reject`. Nothing constrains it. -/
opaque devRead (n : Nat) (dev : DevId) (offset : Nat) (width : Width) : Option Word

/-- FREE VALUE (00_scope R16, log 8). Whether the handler `DevWrite(dev, offset, width, data)` answers `Ok`
(`true`) or `Reject` (`false`) on the block's `n`-th call of a handler. Nothing constrains it. -/
opaque devWrite (n : Nat) (dev : DevId) (offset : Nat) (width : Width) (data : Word) : Bool

end Config

end Sys2Proof
end

