-- ==== Sys2Proof/Syntax.lean ====
section
/-! DEFINITION. The commands of the block (30_encoding R121 to R123): one constructor of `Instr` for each row of
spec/opcode_table.json, with the fields its format uses. -/

namespace Sys2Proof

/-- Processor modes (10_state R35, 60_exceptions R420). -/
inductive Mode
  | kernel
  | supervisor
  | unused
  | user
  deriving DecidableEq, Repr

/-- Instruction and data space (30_encoding R121). -/
inductive Space
  | instruction
  | data
  deriving DecidableEq, Repr

/-- The kind of an access (30_encoding R121). -/
inductive Kind
  | read
  | write
  deriving DecidableEq, Repr

/-- A command as its command word gives it (30_encoding R123); its operands stand beside it on the port (R125). -/
inductive Instr
  | translate (mode : Mode) (space : Space) (kind : Kind) (width : Width)
  | route (kind : Kind) (width : Width)
  | access (mode : Mode) (space : Space) (kind : Kind) (width : Width)
  | snapshot
  | trapPost (tslot : BitVec 4)
  | trapHighest
  | dispatch
  | intRequest (level : Level) (slot : BitVec 5)
  | intCancel (level : Level) (slot : BitVec 5)
  | intReevaluate (ipl : Level)
  | intAck (ipl : Level)
  | devRegister (level : Level) (count : BitVec 6)
  | devUnregister
  | reset
  deriving DecidableEq, Repr

/-- Why a command word is illegal (30_encoding R128, R129). -/
inductive DecodeError
  /-- The OP field is not in the opcode map (R129). -/
  | unassignedOp (op : BitVec 6)
  /-- A reserved bit of the command's format is set (R128). -/
  | reservedBits
  deriving DecidableEq, Repr

end Sys2Proof
end

