-- ==== Sys2Proof/WellFormed.lean ====
section
/-! DEFINITION. The constraints on a command's field values that its format does not already force
(30_encoding R127). A command that breaks one is refused by its meaning, not by the decoder. -/

namespace Sys2Proof

/-- 30_encoding R127, the part about fields of the command word: `SLOT < NSLOTS` (format F_INT),
`COUNT ≤ NSLOTS` (format F_REG), and no `TRAP_POST` of slot 15. -/
def Instr.wellFormed (c : Config) : Instr → Bool
  | .translate _ _ _ _ => true
  | .route _ _ => true
  | .access _ _ _ _ => true
  | .snapshot => true
  | .trapPost t => t != 15#4
  | .trapHighest => true
  | .dispatch => true
  | .intRequest _ s => decide (s.toNat < c.nslots)
  | .intCancel _ s => decide (s.toNat < c.nslots)
  | .intReevaluate _ => true
  | .intAck _ => true
  | .devRegister _ n => decide (n.toNat ≤ c.nslots)
  | .devUnregister => true
  | .reset => true

end Sys2Proof
end

