-- ==== Sys2Proof/Decode.lean ====
section
/-! DEFINITION. The command encoding (30_encoding R121 to R130): a total decoder of the 32-bit command word and,
after it, the encoder. -/

namespace Sys2Proof

/-! ## Field codes (30_encoding R121) -/

/-- The MODE field: kernel 0, supervisor 1, unused 2, user 3. -/
def Mode.code : Mode → BitVec 2
  | .kernel => 0#2
  | .supervisor => 1#2
  | .unused => 2#2
  | .user => 3#2

/-- The mode of a MODE field. -/
def Mode.ofCode (m : BitVec 2) : Mode :=
  if m = 0#2 then .kernel else if m = 1#2 then .supervisor else if m = 2#2 then .unused else .user

/-- The SPACE field: instruction 0, data 1. -/
def Space.code : Space → BitVec 1
  | .instruction => 0#1
  | .data => 1#1

/-- The space of a SPACE field. -/
def Space.ofCode (s : BitVec 1) : Space := if s = 0#1 then .instruction else .data

/-- The KIND field: read 0, write 1. -/
def Kind.code : Kind → BitVec 1
  | .read => 0#1
  | .write => 1#1

/-- The kind of a KIND field. -/
def Kind.ofCode (k : BitVec 1) : Kind := if k = 0#1 then .read else .write

/-- The WIDTH field: word 0, byte 1. -/
def Width.code : Width → BitVec 1
  | .word => 0#1
  | .byte => 1#1

/-- The width of a WIDTH field. -/
def Width.ofCode (w : BitVec 1) : Width := if w = 0#1 then .word else .byte

/-! ## Formats and the opcode map -/

/-- The seven command formats (30_encoding R122). -/
inductive Format
  | mem | bus | none | tslot | int | ipl | reg
  deriving DecidableEq, Repr

/-- The bits a format reserves (30_encoding R122). -/
def Format.reserved : Format → Word32
  | .mem => 0x001FFFFF#32
  | .bus => 0x039FFFFF#32
  | .none => 0x03FFFFFF#32
  | .tslot => 0x03FFFFF0#32
  | .int => 0x03E01FFF#32
  | .ipl => 0x03FFFFF8#32
  | .reg => 0x03E00FFF#32

/-- One row of the opcode map (30_encoding R123): the OP value, the format, and the command that a command word of
that row stands for. -/
structure OpRow where
  op : BitVec 6
  format : Format
  build : Word32 → Instr

/-- OP, CW[31:26]. -/
def opField (w : Word32) : BitVec 6 := w.extractLsb' 26 6
/-- MODE, CW[25:24]. -/
def modeField (w : Word32) : Mode := Mode.ofCode (w.extractLsb' 24 2)
/-- SPACE, CW[23]. -/
def spaceField (w : Word32) : Space := Space.ofCode (w.extractLsb' 23 1)
/-- KIND, CW[22]. -/
def kindField (w : Word32) : Kind := Kind.ofCode (w.extractLsb' 22 1)
/-- WIDTH, CW[21]. -/
def widthField (w : Word32) : Width := Width.ofCode (w.extractLsb' 21 1)
/-- LEVEL, CW[20:18]. -/
def levelField (w : Word32) : Level := w.extractLsb' 18 3
/-- SLOT, CW[17:13]. -/
def slotField (w : Word32) : BitVec 5 := w.extractLsb' 13 5
/-- COUNT, CW[17:12]. -/
def countField (w : Word32) : BitVec 6 := w.extractLsb' 12 6
/-- TSLOT, CW[3:0]. -/
def tslotField (w : Word32) : BitVec 4 := w.extractLsb' 0 4
/-- IPL, CW[2:0]. -/
def iplField (w : Word32) : Level := w.extractLsb' 0 3

/-- The opcode map (30_encoding R123). -/
def opcodeMap : List OpRow :=
  [⟨0x01#6, .mem, fun w => .translate (modeField w) (spaceField w) (kindField w) (widthField w)⟩,
   ⟨0x02#6, .bus, fun w => .route (kindField w) (widthField w)⟩,
   ⟨0x03#6, .mem, fun w => .access (modeField w) (spaceField w) (kindField w) (widthField w)⟩,
   ⟨0x04#6, .none, fun _ => .snapshot⟩,
   ⟨0x08#6, .tslot, fun w => .trapPost (tslotField w)⟩,
   ⟨0x09#6, .none, fun _ => .trapHighest⟩,
   ⟨0x0A#6, .none, fun _ => .dispatch⟩] ++
  [⟨0x10#6, .int, fun w => .intRequest (levelField w) (slotField w)⟩,
   ⟨0x11#6, .int, fun w => .intCancel (levelField w) (slotField w)⟩,
   ⟨0x12#6, .ipl, fun w => .intReevaluate (iplField w)⟩,
   ⟨0x13#6, .ipl, fun w => .intAck (iplField w)⟩,
   ⟨0x18#6, .reg, fun w => .devRegister (levelField w) (countField w)⟩,
   ⟨0x19#6, .none, fun _ => .devUnregister⟩,
   ⟨0x3F#6, .none, fun _ => .reset⟩]

/-- Decode a command word (30_encoding R130). It selects one row of the opcode map or is illegal, by the name of R128
or R129. It reads the command word alone. Which of the two names a word gets that both describe: log 21. -/
def decode (w : Word32) : Except DecodeError Instr :=
  match opcodeMap.find? (fun row => row.op == opField w) with
  | Option.none => .error (.unassignedOp (opField w))
  | some row => if w &&& row.format.reserved = 0#32 then .ok (row.build w) else .error .reservedBits

/-- The decoder on an instruction whose bits are `w`, as spec/opcode_table.json numbers them (log 3): a command is one
32-bit word and has no byte order, and a word that does not fit in 32 bits is no command word. -/
def decodeTableWord (nbits w : Nat) : Option Instr :=
  if w % 2 ^ nbits < 2 ^ 32 then (decode (BitVec.ofNat 32 (w % 2 ^ nbits))).toOption else Option.none

/-! ## The encoder -/

/-- A command word of format F_MEM: OP, MODE, SPACE, KIND, WIDTH and 21 reserved zeros. -/
def encodeMem (op : BitVec 6) (m : Mode) (s : Space) (k : Kind) (w : Width) : Word32 :=
  op ++ m.code ++ s.code ++ k.code ++ w.code ++ 0#21

/-- A command word of format F_BUS. -/
def encodeBus (op : BitVec 6) (k : Kind) (w : Width) : Word32 := op ++ 0#3 ++ k.code ++ w.code ++ 0#21

/-- A command word of format F_NONE. -/
def encodeNone (op : BitVec 6) : Word32 := op ++ 0#26

/-- A command word of format F_TSLOT. -/
def encodeTslot (op : BitVec 6) (t : BitVec 4) : Word32 := op ++ 0#22 ++ t

/-- A command word of format F_INT. -/
def encodeInt (op : BitVec 6) (l : Level) (s : BitVec 5) : Word32 := op ++ 0#5 ++ l ++ s ++ 0#13

/-- A command word of format F_IPL. -/
def encodeIpl (op : BitVec 6) (i : Level) : Word32 := op ++ 0#23 ++ i

/-- A command word of format F_REG. -/
def encodeReg (op : BitVec 6) (l : Level) (n : BitVec 6) : Word32 := op ++ 0#5 ++ l ++ n ++ 0#12

/-- The command word of a command (30_encoding R121 to R123). -/
def encode : Instr → Word32
  | .translate m s k w => encodeMem 0x01#6 m s k w
  | .route k w => encodeBus 0x02#6 k w
  | .access m s k w => encodeMem 0x03#6 m s k w
  | .snapshot => encodeNone 0x04#6
  | .trapPost t => encodeTslot 0x08#6 t
  | .trapHighest => encodeNone 0x09#6
  | .dispatch => encodeNone 0x0A#6
  | .intRequest l s => encodeInt 0x10#6 l s
  | .intCancel l s => encodeInt 0x11#6 l s
  | .intReevaluate i => encodeIpl 0x12#6 i
  | .intAck i => encodeIpl 0x13#6 i
  | .devRegister l n => encodeReg 0x18#6 l n
  | .devUnregister => encodeNone 0x19#6
  | .reset => encodeNone 0x3F#6

end Sys2Proof
end

