-- ==== Sys2Proof/Machine/Memory.lean ====
section
/-! DEFINITION. Main memory (10_state R46; 20_memory R81, R86): its canonical form, reads and writes of bytes and words, and
the memory that a power-on draw gives. -/

namespace Sys2Proof.Machine

/-- Main memory: the bytes that differ from what an unlisted address reads as (10_state R46, log 7). -/
abbrev Memory := List Host.Cell

/-- What an unlisted address reads as. It only fixes how a memory is written down: every contents of memory is one list,
and which of them memory holds at power-on is drawn (`Memory.ofDraw`, log 7). -/
def unlistedByte : Byte := 0#8

/-- The canonical form of memory: addresses strictly rising, no entry equal to what an unlisted address reads as. -/
abbrev Memory.wf (m : Memory) : Prop :=
  m.Pairwise (fun c e => c.1 < e.1) ∧ ∀ c ∈ m, c.2 ≠ unlistedByte

/-- The byte at an address. -/
def Memory.read : Memory → Nat → Byte
  | [], _ => unlistedByte
  | (b, u) :: rest, a => if a = b then u else Memory.read rest a

/-- Memory with an entry for an address, at its place in the order. -/
def Memory.put (a : Nat) (v : Byte) : Memory → Memory
  | [] => [(a, v)]
  | (b, u) :: rest =>
    if a < b then (a, v) :: (b, u) :: rest
    else if a = b then (a, v) :: rest
    else (b, u) :: Memory.put a v rest

/-- Memory without an entry for an address. -/
def Memory.drop (m : Memory) (a : Nat) : Memory := m.filter (fun c => decide (c.1 ≠ a))

/-- Write one byte, keeping the canonical form. -/
def Memory.write (m : Memory) (a : Nat) (v : Byte) : Memory :=
  if v = unlistedByte then m.drop a else m.put a v

/-- The memory of `size` bytes that a draw gives at power-on: each byte the draw lists at an installed address holds the
value it lists last (10_state R46). Every contents of memory is the memory of some draw. -/
def Memory.ofDraw (size : Nat) (draw : List Host.Cell) : Memory :=
  draw.foldl (fun m c => if c.1 < size then m.write c.1 c.2 else m) []

/-- `MemRead(pa, n)`: little-endian (20_memory R81); a byte is zero-extended (R86). -/
def memRead (m : Memory) (pa : Nat) : Width → Word
  | .byte => (m.read pa).setWidth 16
  | .word => m.read (pa + 1) ++ m.read pa

/-- `MemWrite(pa, n, v)`: little-endian (20_memory R81); a byte write stores bits [7:0]. -/
def memWrite (m : Memory) (pa : Nat) (w : Width) (v : Word) : Memory :=
  match w with
  | .byte => m.write pa (v.extractLsb' 0 8)
  | .word => (m.write pa (v.extractLsb' 0 8)).write (pa + 1) (v.extractLsb' 8 8)

end Sys2Proof.Machine
end

