-- ==== Sys2Proof/Machine/State.lean ====
section
/-! DEFINITION. The state of the block (10_state), the command port (30_encoding R120), the ways a step stops, and
construction (70_reset R451). -/

namespace Sys2Proof.Machine

/-! ## The block's own state -/

/-- A page descriptor (10_state R34). -/
structure Desc where
  /-- Page address field: relocation in 64-byte units. -/
  paf : Word
  /-- Page length field, in 64-byte blocks. -/
  plf : BitVec 7
  /-- Expand downward. -/
  ed : Bool
  /-- Writable. -/
  w : Bool
  /-- Readable. -/
  r : Bool
  /-- Written, the dirty bit. -/
  wr : Bool
  deriving DecidableEq, Repr

/-- The reset value of a descriptor: all zero, inaccessible (10_state R34). -/
def Desc.zero : Desc := ⟨0#16, 0#7, false, false, false, false⟩

/-- The reason of a fault record (10_state R39). -/
inductive FaultReason
  | none
  | nonResident
  | pageLength
  | readOnly
  deriving DecidableEq, Repr

/-- The fault record (10_state R39). It is frozen when its reason is not `none`. -/
structure FaultRecord where
  reason : FaultReason
  slot : BitVec 6
  pc : Word
  deriving DecidableEq, Repr

/-- The empty record: its reset value (10_state R39) and what Clear leaves (40_pagetable R214). -/
def FaultRecord.empty : FaultRecord := ⟨.none, 0#6, 0#16⟩

/-- A register window `[base, limit)` of a device, or of the block itself when `dev` is `BLOCK` (10_state R45). -/
structure Window where
  base : Nat
  limit : Nat
  dev : DevId
  deriving DecidableEq, Repr

/-- A table over the vector slots of levels 4 to 7, level 4 first, 32 slots a level, of which `NSLOTS` exist
(10_state R42, log 14). -/
abbrev SlotTable (α : Type) := Vector (Vector α 32) 4

/-! ## The command port -/

/-- The operand values A to D of a command (30_encoding R120). -/
structure Operands where
  a : Word32
  b : Word32
  c : Word32
  d : Word32
  deriving DecidableEq, Repr

/-- A command presented at the port: its command word and its operands (30_encoding R120). -/
structure Command where
  cw : Word32
  ops : Operands
  deriving DecidableEq, Repr

/-- Status codes (30_encoding R124). -/
inductive Status
  | ok
  | none
  | nonResident
  | pageLength
  | readOnly
  | oddAddress
  | nxm
  | overlap
  | slotsExhausted
  | doubleFault
  | refused
  deriving DecidableEq, Repr

/-- Why a command is refused: the reasons that the rules name, and the illegal words of 30_encoding R127 to R129
(00_scope R20, log 11). -/
inductive RefuseReason
  /-- 30_encoding R128, R129. -/
  | illegalWord (e : DecodeError)
  /-- 30_encoding R127: ROUTE with `A ≥ 2^PAW`. -/
  | badAddress
  /-- 41_trapunit R240. -/
  | slot15NotPostable
  /-- 42_interrupts R280 to R282. -/
  | unownedSlot
  /-- 20_memory R84. -/
  | oddWord
  /-- 43_bus R330. -/
  | badRegistration
  /-- 43_bus R334. -/
  | builtinWindow
  deriving DecidableEq, Repr

/-- The block's answer to one command: STATUS and Q0 to Q3 (30_encoding R120), and the reason of a refusal. -/
structure Answer where
  status : Status
  q0 : Word32
  q1 : Word32
  q2 : Word32
  q3 : Word32
  reason : Option RefuseReason
  deriving DecidableEq, Repr

/-- An access forwarded to a device's handler (43_bus R322); `data` is 0 for a read. -/
structure DevCall where
  dev : DevId
  kind : Kind
  offset : Nat
  width : Width
  data : Word
  deriving DecidableEq, Repr

/-! ## State -/

/-- The state of the block (the table of 10_state.md), its parameters, and the MODEL's own fields for the port. -/
structure State where
  /-- The parameters of construction, which no command changes (70_reset R451, log 6). -/
  cfg : Config
  /-- `S.desc` (R34). -/
  desc : Vector Desc 64
  /-- `S.enable` (R37). -/
  enable : Bool
  /-- `S.ext` (R38). -/
  ext : Bool
  /-- `S.fr` (R39). -/
  fr : FaultRecord
  /-- `S.trapmask` (R40). -/
  trapmask : BitVec 16
  /-- `S.pend` of levels 0 to 7, 32 bits wide of which `NSLOTS` exist (R41, log 14). -/
  pend : Vector (BitVec 32) 8
  /-- `S.owner`; `none` is FREE (R42). -/
  owner : SlotTable (Option DevId)
  /-- `S.vec` (R42). -/
  vec : SlotTable Word
  /-- `S.pirq`: bit `L - 1` is level `L` (R43). -/
  pirq : BitVec 7
  /-- `S.ipl_shadow` (R44). -/
  iplShadow : Level
  /-- `S.windows`, in the order of registration (R45). -/
  windows : List Window
  /-- `S.mem` (R46). -/
  mem : Memory
  /-- `S.refused` (R47). -/
  refused : Bool
  /-- `S.stopped` (R47). -/
  stopped : Bool
  /-- `S.config_error` (R47). -/
  configError : Bool
  /-- The commands presented at the port and not yet performed, oldest first (log 1). -/
  commands : List Command
  /-- The operands of the command being performed (log 5). -/
  ops : Operands
  /-- The answer to the latest command, `none` before the first (log 4). -/
  answer : Option Answer
  /-- The accesses the latest command forwarded to device handlers, in order (log 9). -/
  devCalls : List DevCall
  /-- How many times a device handler has been called (log 8). -/
  draws : Nat
  deriving DecidableEq, Repr

/-! ## Results of the shared operations -/

/-- The built-in registers (10_state R48 to R55). -/
inductive Reg
  | sr0
  | sr2
  | sr3
  | pdr (slot : BitVec 6)
  | par (slot : BitVec 6)
  | pirq
  | trapclr
  deriving DecidableEq, Repr

/-- A fault of a translation (40_pagetable R209). -/
inductive TransFault
  | odd
  | nonResident
  | pageLength
  | readOnly
  deriving DecidableEq, Repr

/-- How a physical access ends (43_bus R320): with a value, with `NXM`, or refused. -/
inductive Routed
  | ok (s : State) (v : Word)
  | nxm (s : State)
  | refused (s : State) (why : RefuseReason)
  deriving DecidableEq, Repr

/-- What Acknowledge takes (42_interrupts R286); a software request has no slot. -/
structure Ack where
  vector : Word
  level : Level
  slot : Option (BitVec 5)
  deriving DecidableEq, Repr

/-- How one of DISPATCH's own accesses ends (41_trapunit R249). -/
inductive KernelAccess
  | ok (s : State) (v : Word)
  | stop (s : State)
  | refused (s : State) (why : RefuseReason)
  deriving DecidableEq, Repr

/-- How a command ends (00_scope R20): answered, refused, or stopping the run. -/
inductive Ending
  | answer (s : State) (a : Answer)
  | refuse (s : State) (why : RefuseReason)
  | stop (s : State)
  deriving DecidableEq, Repr

/-! ## How a step of the model stops -/

/-- The faults of the model. -/
inductive Fault
  /-- Raised by `step` when the block is stopped: after DOUBLE_FAULT no command has a step (41_trapunit R252,
  70_reset R469). Safe: the model goes no further than the spec. -/
  | stopped
  deriving DecidableEq, Repr

/-- The refusals of the model. A command the spec refuses is NOT one of them: it is answered REFUSED in a next state
(00_scope R20, log 12). -/
inductive Refusal
  /-- Raised by an arm of `exec` whose command has no meaning yet; no arm is one. Safe. -/
  | notModelled (mnemonic : String)
  deriving DecidableEq, Repr

/-! ## Construction and reset -/

/-- The built-in windows (10_state R56). -/
def builtinWindows (c : Config) : List Window :=
  [⟨c.ioPageBase + 0o12200, c.ioPageBase + 0o12400, BLOCK⟩,
   ⟨c.ioPageBase + 0o12516, c.ioPageBase + 0o12520, BLOCK⟩,
   ⟨c.ioPageBase + 0o17572, c.ioPageBase + 0o17574, BLOCK⟩,
   ⟨c.ioPageBase + 0o17576, c.ioPageBase + 0o17600, BLOCK⟩,
   ⟨c.ioPageBase + 0o17600, c.ioPageBase + 0o17700, BLOCK⟩,
   ⟨c.ioPageBase + 0o17756, c.ioPageBase + 0o17760, BLOCK⟩,
   ⟨c.ioPageBase + 0o17772, c.ioPageBase + 0o17774, BLOCK⟩]

/-- The block as it is built with the parameters `c`, before any command (70_reset R451). Memory is the one that `draw`
gives, which nothing constrains (10_state R46); the port holds no command and has given no answer (log 1, log 4,
log 5). -/
def State.construct (c : Config) (draw : List Host.Cell) : State where
  cfg := c
  desc := Vector.replicate 64 Desc.zero
  enable := false
  ext := false
  fr := FaultRecord.empty
  trapmask := 0#16
  pend := Vector.replicate 8 0#32
  owner := Vector.replicate 4 (Vector.replicate 32 none)
  vec := Vector.replicate 4 (Vector.replicate 32 0#16)
  pirq := 0#7
  iplShadow := 7#3
  windows := builtinWindows c
  mem := Memory.ofDraw c.memSize draw
  refused := false
  stopped := false
  configError := false
  commands := []
  ops := ⟨0#32, 0#32, 0#32, 0#32⟩
  answer := none
  devCalls := []
  draws := 0

/-- The machine right after reset: construction with the default parameters (70_reset R451, log 6) and a power-on memory
that is a free value (log 7). -/
def State.reset : State := State.construct Config.default Config.powerOnDraw

end Sys2Proof.Machine
end

