-- ==== Sys2Proof/Machine/Flags.lean ====
section
/-! DEFINITION. The processor status word that DISPATCH takes and returns (10_state R32, 41_trapunit R251). The block
holds no flags and no command computes one: N, Z, V, C and T pass through DISPATCH in the new-status word of the vector
(10_state R33). -/

namespace Sys2Proof.Machine

/-- CM, PSW[15:14]: the current mode (10_state R32). -/
def pswCurrentMode (psw : Word) : BitVec 2 := psw.extractLsb' 14 2
/-- PM, PSW[13:12]: the previous mode. -/
def pswPreviousMode (psw : Word) : BitVec 2 := psw.extractLsb' 12 2
/-- IPL, PSW[7:5]: the priority. -/
def pswIpl (psw : Word) : Level := psw.extractLsb' 5 3
/-- T, PSW[4]: the trace bit. -/
def pswTrace (psw : Word) : Bool := psw.getLsbD 4
/-- N, PSW[3]. -/
def pswN (psw : Word) : Bool := psw.getLsbD 3
/-- Z, PSW[2]. -/
def pswZ (psw : Word) : Bool := psw.getLsbD 2
/-- V, PSW[1]. -/
def pswV (psw : Word) : Bool := psw.getLsbD 1
/-- C, PSW[0]. -/
def pswC (psw : Word) : Bool := psw.getLsbD 0

/-- The new status word (41_trapunit R251): mode kernel, previous mode the old current mode, bits [11:0] of the vector's
new-status word. -/
def newPsw (old vectorStatus : Word) : Word := 0#2 ++ pswCurrentMode old ++ vectorStatus.extractLsb' 0 12

end Sys2Proof.Machine
end

