-- ==== Sys2Proof/Machine/Operands.lean ====
section
/-! DEFINITION. Operand and result assembly: how commands read A to D (30_encoding R125) and how answers fill STATUS and
Q0 to Q3 (30_encoding R124, R126). -/

namespace Sys2Proof.Machine

/-! ## Operands (30_encoding R125) -/

/-- A[15:0]: VA of TRANSLATE and ACCESS, PC of DISPATCH. -/
def State.opA16 (s : State) : Word := s.ops.a.setWidth 16
/-- B[15:0]: PC of TRANSLATE, write data of ROUTE and ACCESS, PSW of DISPATCH. -/
def State.opB16 (s : State) : Word := s.ops.b.setWidth 16
/-- C[15:0]: PC of ACCESS, KSP of DISPATCH. -/
def State.opC16 (s : State) : Word := s.ops.c.setWidth 16
/-- D[15:0]: vector base of DEV_REGISTER. -/
def State.opD16 (s : State) : Word := s.ops.d.setWidth 16
/-- A as an address: PA of ROUTE, window base of DEV_REGISTER. -/
def State.opAAddr (s : State) : Nat := s.ops.a.toNat
/-- B as an address: window limit of DEV_REGISTER. -/
def State.opBAddr (s : State) : Nat := s.ops.b.toNat
/-- A as a device id: INT_REQUEST, INT_CANCEL, DEV_UNREGISTER. -/
def State.opADev (s : State) : DevId := s.ops.a
/-- C as a device id: DEV_REGISTER. -/
def State.opCDev (s : State) : DevId := s.ops.c

/-- The write data that an access of a width uses: a byte access ignores bits [15:8] (20_memory R86). -/
def writeData (w : Width) (v : Word) : Word :=
  match w with
  | .byte => (v.extractLsb' 0 8).setWidth 16
  | .word => v

/-- A value of the access width (00_scope R16, log 23). -/
def readValue (w : Width) (v : Word) : Word :=
  match w with
  | .byte => (v.extractLsb' 0 8).setWidth 16
  | .word => v

/-! ## Answers (30_encoding R124, R126) -/

/-- The status code (30_encoding R124). -/
def Status.code : Status → BitVec 4
  | .ok => 0#4
  | .none => 1#4
  | .nonResident => 2#4
  | .pageLength => 3#4
  | .readOnly => 4#4
  | .oddAddress => 5#4
  | .nxm => 6#4
  | .overlap => 7#4
  | .slotsExhausted => 8#4
  | .doubleFault => 9#4
  | .refused => 14#4

/-- An answer with its four results. -/
def Answer.results (st : Status) (q0 q1 q2 q3 : Word32) : Answer := ⟨st, q0, q1, q2, q3, none⟩

/-- An answer whose results are all 0: results a command does not define are 0 (30_encoding R120), and so are those of
a command that ends with a fault status (R126). -/
def Answer.bare (st : Status) : Answer := ⟨st, 0#32, 0#32, 0#32, 0#32, none⟩

/-- The answer REFUSED, with the reason (log 11, log 24). -/
def Answer.refusal (why : RefuseReason) : Answer := ⟨.refused, 0#32, 0#32, 0#32, 0#32, some why⟩

/-- A result value of 16 bits, zero-extended (30_encoding R126). -/
def result16 (v : Word) : Word32 := v.setWidth 32

/-- A result value that is a natural number: an address, a slot index, a code. -/
def resultNat (n : Nat) : Word32 := BitVec.ofNat 32 n

/-- The SNAPSHOT code of a fault reason (40_pagetable R213). -/
def FaultReason.code : FaultReason → Nat
  | .none => 0
  | .nonResident => 1
  | .pageLength => 2
  | .readOnly => 3

/-- The status a translation fault is reported with (60_exceptions R400). -/
def TransFault.status : TransFault → Status
  | .odd => .oddAddress
  | .nonResident => .nonResident
  | .pageLength => .pageLength
  | .readOnly => .readOnly

/-! ## How a command ends (00_scope R20) -/

/-- The next state of a command that began in `s0`. An answer leaves the state its rule gives. A refusal leaves `s0` with
the sticky mark `S.refused`: the model gives the command no meaning (R20, log 10); only the handler calls made are not
taken back. A stop leaves the state reached, with the mark `S.stopped` and the answer DOUBLE_FAULT (41_trapunit R252,
log 13). -/
def finish (s0 : State) : Ending → Host.Outcome State Fault Refusal
  | .answer s a => .next { s with answer := some a }
  | .refuse s why =>
    .next { s0 with
      refused := true, devCalls := s.devCalls, draws := s.draws, answer := some (Answer.refusal why) }
  | .stop s => .next { s with stopped := true, answer := some (Answer.bare .doubleFault) }

end Sys2Proof.Machine
end

