-- ==== Sys2Proof/Machine/Ops.lean ====
section
/-! DEFINITION. The shared operations of the commands: descriptors and translation (40_pagetable), the fault record,
the interrupt fabric (42_interrupts), the register surface (44_register_surface), routing (43_bus), and taking a trap
(41_trapunit R249 to R252). -/

namespace Sys2Proof.Machine

/-! ## Single bits -/

/-- A mask with one bit set. -/
def setBit {w : Nat} (m : BitVec w) (k : Nat) : BitVec w := m ||| BitVec.twoPow w k

/-- A mask with one bit cleared. -/
def clearBit {w : Nat} (m : BitVec w) (k : Nat) : BitVec w := m &&& ~~~(BitVec.twoPow w k)

/-- The least index of a set bit. -/
def leastSet {w : Nat} (m : BitVec w) : Option Nat := (List.range w).find? (fun i => m.getLsbD i)

/-! ## Descriptors and the fault record -/

/-- `slot = mode ++ space ++ page` (10_state R35), page = VA[15:13]. -/
def slotOf (mode : Mode) (space : Space) (va : Word) : BitVec 6 :=
  mode.code ++ space.code ++ va.extractLsb' 13 3

/-- `S.desc[slot]`. -/
def State.descAt (s : State) (slot : BitVec 6) : Desc := s.desc[slot.toNat]'slot.isLt

/-- `S.desc[slot] <- d`. -/
def State.setDesc (s : State) (slot : BitVec 6) (d : Desc) : State :=
  { s with desc := s.desc.set slot.toNat d slot.isLt }

/-- `S.fr <- r`. -/
def State.setFr (s : State) (r : FaultRecord) : State := { s with fr := r }

/-- Latch (40_pagetable R210): a no-op on a frozen record. -/
def State.latch (s : State) (reason : FaultReason) (slot : BitVec 6) (pc : Word) : State :=
  if s.fr.reason = .none then s.setFr ⟨reason, slot, pc⟩ else s

/-- Clear (40_pagetable R214). -/
def State.clearFr (s : State) : State := s.setFr FaultRecord.empty

/-! ## Translation (40_pagetable R200 to R212) -/

/-- `Unmapped(va)`: the fixed widening with translation disabled (40_pagetable R208). -/
def widen (c : Config) (va : Word) : Nat :=
  if 0xE000 ≤ va.toNat then c.ioPageBase + (va.toNat - 0xE000) else va.toNat

/-- `Relocate(va, paf)` (40_pagetable R207); `ext` is `S.ext`. -/
def relocate (c : Config) (ext : Bool) (va paf : Word) : Nat :=
  let p := ((va.extractLsb' 0 13).toNat + paf.toNat * 64) % 2 ^ c.paw.bits
  if c.paw = .extended22 ∧ ext = false then
    let q := p % 2 ^ 18
    if 0x3E000 ≤ q then q + 0x3C0000 else q
  else p

/-- The length check of 40_pagetable R204, failing: `blk = VA[12:6]` is out of the page's length. -/
def outOfLength (d : Desc) (va : Word) : Bool :=
  let blk := va.extractLsb' 6 7
  if d.ed then decide (blk < d.plf) else decide (d.plf < blk)

/-- TRANSLATE as a function (40_pagetable R200): the state it leaves, and a physical address or a fault. -/
def translate (s : State) (mode : Mode) (space : Space) (kind : Kind) (width : Width) (va pc : Word) :
    State × Except TransFault Nat :=
  if width = .word ∧ va.getLsbD 0 = true ∧ s.cfg.enforceOdd = true then (s, .error .odd)
  else if s.enable = false then (s, .ok (widen s.cfg va))
  else
    let slot := slotOf mode space va
    let d := s.descAt slot
    if d.r = false then (s.latch .nonResident slot pc, .error .nonResident)
    else if outOfLength d va = true then (s.latch .pageLength slot pc, .error .pageLength)
    else if kind = .write ∧ d.w = false then (s.latch .readOnly slot pc, .error .readOnly)
    else
      (if kind = .write then s.setDesc slot { d with wr := true } else s,
       .ok (relocate s.cfg s.ext va d.paf))

/-! ## The trap mask -/

/-- `S.trapmask <- m`. -/
def State.setTrapmask (s : State) (m : BitVec 16) : State := { s with trapmask := m }

/-- `S.trapmask[k] <- 1`. -/
def State.postTrap (s : State) (k : Nat) : State := s.setTrapmask (setBit s.trapmask k)

/-- `slot(X)`: the slot that TRAP_TABLE names X (43_bus R326). -/
def trapSlot (c : Config) (n : TrapName) : Option (Fin 15) :=
  (List.finRange 15).find? (fun k => decide (c.trapTable[k].name = n))

/-- `S.trapmask[slot(X)] <- 1` (43_bus R326). A table without the name posts nothing (log 16). -/
def State.postNamed (s : State) (n : TrapName) : State :=
  match trapSlot s.cfg n with
  | some k => s.postTrap k.val
  | none => s

/-- HighestPending (41_trapunit R242). -/
def State.highestPending (s : State) : Option Nat := leastSet s.trapmask

/-- The slots of PERSIST_SET whose bit is set in `v` are cleared in `m` (44_register_surface R378). -/
def clearPersistent (persist : List (Fin 15)) (v m : BitVec 16) : BitVec 16 :=
  persist.foldl (fun m k => if v.getLsbD k.val then clearBit m k.val else m) m

/-! ## The interrupt fabric (42_interrupts) -/

/-- `S.pend[L]`. -/
def State.pendAt (s : State) (l : Level) : BitVec 32 := s.pend[l.toNat]'l.isLt

/-- `S.pend[L] <- m`. -/
def State.setPend (s : State) (l : Level) (m : BitVec 32) : State :=
  { s with pend := s.pend.set l.toNat m l.isLt }

/-- An entry of a slot table; levels 0 to 3 have none and give the default (10_state R42). -/
def SlotTable.entry {α : Type} (t : SlotTable α) (dflt : α) (l : Level) (k : Nat) : α :=
  if l.toNat < 4 then dflt else ((t[l.toNat - 4]?).bind (fun row => row[k]?)).getD dflt

/-- A slot table with the entries of one level replaced where a function gives a value. -/
def SlotTable.update {α : Type} (t : SlotTable α) (f : Level → Nat → Option α) : SlotTable α :=
  Vector.ofFn fun i => Vector.ofFn fun k => (f (BitVec.ofNat 3 (i.val + 4)) k.val).getD t[i][k]

/-- `S.owner[L][k]`, `none` for FREE and where no slot exists. -/
def State.ownerAt (s : State) (l : Level) (k : Nat) : Option DevId := s.owner.entry none l k

/-- `S.vec[L][k]`. -/
def State.vecAt (s : State) (l : Level) (k : Nat) : Word := s.vec.entry 0#16 l k

/-- `S.pirq[L]`; level 0 has no bit (10_state R43). -/
def State.pirqAt (s : State) (l : Level) : Bool :=
  decide (l ≠ 0#3) && s.pirq.getLsbD (l.toNat - 1)

/-- The scan range: the levels from 7 down to `ipl + 1` (42_interrupts R283). -/
def levelsAbove (ipl : Level) : List Level :=
  [7#3, 6#3, 5#3, 4#3, 3#3, 2#3, 1#3].filter (fun l => decide (ipl < l))

/-- The aggregate condition of Reevaluate (42_interrupts R284). -/
def State.aggregate (s : State) (ipl : Level) : Bool :=
  (levelsAbove ipl).any (fun l => s.pendAt l != 0#32 || s.pirqAt l)

/-- A trap mask with bit 15 replaced. -/
def withAggregate (m : BitVec 16) (b : Bool) : BitVec 16 := BitVec.cons b (m.setWidth 15)

/-- Reevaluate (42_interrupts R284). -/
def State.reevaluate (s : State) (ipl : Level) : State :=
  { s with iplShadow := ipl, trapmask := withAggregate s.trapmask (s.aggregate ipl) }

/-- The device request that Acknowledge takes: the highest level in range with a pending slot, and its lowest slot
(42_interrupts R286, R291). -/
def State.deviceRequest (s : State) (ipl : Level) : Option (Level × Nat) :=
  (levelsAbove ipl).findSome? (fun l => (leastSet (s.pendAt l)).map (fun k => (l, k)))

/-- The software request that Acknowledge takes: the highest level in range (42_interrupts R286, R292). -/
def State.softwareRequest (s : State) (ipl : Level) : Option Level :=
  (levelsAbove ipl).find? (fun l => s.pirqAt l)

/-- `SWI_VEC(L)` for levels 1 to 7 (42_interrupts R295). -/
def swiVector (c : Config) (l : Level) : Word := (c.swiVec[l.toNat - 1]?).getD 0#16

/-- Acknowledge (42_interrupts R286): any device request in range first (R290), then a software request, whose PIRQ bit
stays (R287). It does not re-evaluate. -/
def State.acknowledge (s : State) (ipl : Level) : State × Option Ack :=
  match s.deviceRequest ipl with
  | some (l, k) => (s.setPend l (clearBit (s.pendAt l) k), some ⟨s.vecAt l k, l, some (BitVec.ofNat 5 k)⟩)
  | none =>
    match s.softwareRequest ipl with
    | some l => (s, some ⟨swiVector s.cfg l, l, none⟩)
    | none => (s, none)

/-! ## The register surface (44_register_surface) -/

/-- The descriptor register at an offset from a mode's PDRBASE: `0o20*space + 2*page` for the PDR words, 0o40 more for
the PAR words (10_state R51, R52). -/
def descReg (mode : Mode) (off : Nat) : Reg :=
  let slot := mode.code ++ BitVec.ofNat 4 (off % 0o40 / 2)
  if off < 0o40 then .pdr slot else .par slot

/-- The register at an even offset of the I/O page (10_state R48 to R55), if there is one. -/
def regAt (wo : Nat) : Option Reg :=
  if 0o12200 ≤ wo ∧ wo < 0o12300 then some (descReg .supervisor (wo - 0o12200))
  else if 0o12300 ≤ wo ∧ wo < 0o12400 then some (descReg .kernel (wo - 0o12300))
  else if 0o17600 ≤ wo ∧ wo < 0o17700 then some (descReg .user (wo - 0o17600))
  else if wo = 0o17572 then some .sr0
  else if wo = 0o17576 then some .sr2
  else if wo = 0o12516 then some .sr3
  else if wo = 0o17772 then some .pirq
  else if wo = 0o17756 then some .trapclr
  else none

/-- SR0 as read (44_register_surface R361, 10_state R48). -/
def State.readSr0 (s : State) : Word :=
  BitVec.ofBool (decide (s.fr.reason = .nonResident)) ++ BitVec.ofBool (decide (s.fr.reason = .pageLength)) ++
  BitVec.ofBool (decide (s.fr.reason = .readOnly)) ++ 0#6 ++ s.fr.slot ++ BitVec.ofBool s.enable

/-- SR0 write (44_register_surface R362). -/
def State.writeSr0 (s : State) (v : Word) : State :=
  let s1 := { s with enable := v.getLsbD 0 }
  if v.extractLsb' 13 3 = 0#3 then s1.clearFr else s1

/-- SR3 as read: `S.ext << 4`, hardwired 0 at PAW = 18 (44_register_surface R365, 10_state R38, log 19). -/
def State.readSr3 (s : State) : Word :=
  0#11 ++ BitVec.ofBool (s.ext && decide (s.cfg.paw = .extended22)) ++ 0#4

/-- SR3 write (44_register_surface R366). -/
def State.writeSr3 (s : State) (v : Word) : State :=
  if s.cfg.paw = .extended22 then { s with ext := v.getLsbD 4 } else s

/-- PDR as read (44_register_surface R367, 10_state R51). -/
def Desc.readPdr (d : Desc) : Word :=
  0#1 ++ d.plf ++ 0#1 ++ BitVec.ofBool d.wr ++ 0#2 ++ BitVec.ofBool d.ed ++ BitVec.ofBool d.w ++ BitVec.ofBool d.r ++ 0#1

/-- PDR write (44_register_surface R368): it clears the dirty bit. -/
def Desc.writePdr (d : Desc) (v : Word) : Desc :=
  { d with plf := v.extractLsb' 8 7, ed := v.getLsbD 3, w := v.getLsbD 2, r := v.getLsbD 1, wr := false }

/-- PAR write (44_register_surface R370): it clears the dirty bit. -/
def Desc.writePar (d : Desc) (v : Word) : Desc := { d with paf := v, wr := false }

/-- `PIA()`: the highest requested software level, 0 if none (44_register_surface R374, R375). -/
def State.pia (s : State) : Level := (([7#3, 6#3, 5#3, 4#3, 3#3, 2#3, 1#3] : List Level).find? (fun l => s.pirqAt l)).getD 0#3

/-- PIRQ as read (44_register_surface R374, 10_state R54). -/
def State.readPirq (s : State) : Word := s.pirq ++ 0#1 ++ s.pia ++ 0#1 ++ s.pia ++ 0#1

/-- PIRQ write (44_register_surface R376): it re-evaluates. -/
def State.writePirq (s : State) (v : Word) : State :=
  { s with pirq := v.extractLsb' 9 7 }.reevaluate s.iplShadow

/-- TRAPCLR write (44_register_surface R378). -/
def State.writeTrapclr (s : State) (v : Word) : State :=
  s.setTrapmask (clearPersistent s.cfg.persistSet v s.trapmask)

/-- `RegRead` (44_register_surface R360). -/
def State.regRead (s : State) : Reg → Word
  | .sr0 => s.readSr0
  | .sr2 => s.fr.pc
  | .sr3 => s.readSr3
  | .pdr slot => (s.descAt slot).readPdr
  | .par slot => (s.descAt slot).paf
  | .pirq => s.readPirq
  | .trapclr => s.trapmask

/-- `RegWrite` (44_register_surface R360); SR2 is read-only (R364). -/
def State.regWrite (s : State) (r : Reg) (v : Word) : State :=
  match r with
  | .sr0 => s.writeSr0 v
  | .sr2 => s
  | .sr3 => s.writeSr3 v
  | .pdr slot => s.setDesc slot ((s.descAt slot).writePdr v)
  | .par slot => s.setDesc slot ((s.descAt slot).writePar v)
  | .pirq => s.writePirq v
  | .trapclr => s.writeTrapclr v

/-- The byte lane of a register word: the odd address is bits [15:8] (44_register_surface R371). -/
def laneRead (odd : Bool) (cur : Word) : Word :=
  (if odd then cur.extractLsb' 8 8 else cur.extractLsb' 0 8).setWidth 16

/-- A register word with one byte lane replaced by data[7:0] (44_register_surface R360, R372). -/
def laneMerge (odd : Bool) (cur data : Word) : Word :=
  if odd then data.extractLsb' 0 8 ++ cur.extractLsb' 0 8 else cur.extractLsb' 8 8 ++ data.extractLsb' 0 8

/-- RegAccess (44_register_surface R360). An offset that names no register, which no built-in window holds, is NXM
(43_bus R323, log 15). -/
def State.regAccess (s : State) (kind : Kind) (width : Width) (off : Nat) (data : Word) : Routed :=
  match regAt (off - off % 2) with
  | none => .nxm s
  | some r =>
    match kind, width with
    | .read, .word => .ok s (s.regRead r)
    | .write, .word => .ok (s.regWrite r data) 0#16
    | .read, .byte => .ok s (laneRead (off % 2 == 1) (s.regRead r))
    | .write, .byte => .ok (s.regWrite r (laneMerge (off % 2 == 1) (s.regRead r) data)) 0#16

/-! ## Routing (43_bus R320 to R329) -/

/-- Lookup (43_bus R329): the window that holds an address; the first one in a list that overlaps (log 20). -/
def State.lookup (s : State) (pa : Nat) : Option Window :=
  s.windows.find? (fun w => decide (w.base ≤ pa ∧ pa < w.limit))

/-- An access forwarded to a device's handler (43_bus R322, 00_scope R16): the call is recorded (log 9), the handler's
answer is a free value (log 8), and `Reject` is NXM. -/
def State.deviceAccess (s : State) (dev : DevId) (kind : Kind) (width : Width) (off : Nat) (data : Word) : Routed :=
  match kind with
  | .read =>
    let s1 := { s with devCalls := s.devCalls ++ [⟨dev, .read, off, width, 0#16⟩], draws := s.draws + 1 }
    match Config.devRead s.draws dev off width with
    | some v => .ok s1 (readValue width v)
    | none => .nxm s1
  | .write =>
    let d := writeData width data
    let s1 := { s with devCalls := s.devCalls ++ [⟨dev, .write, off, width, d⟩], draws := s.draws + 1 }
    if Config.devWrite s.draws dev off width d then .ok s1 0#16 else .nxm s1

/-- An access at an address that a word access finds even (43_bus R320 to R323). -/
def State.routeAt (s : State) (kind : Kind) (width : Width) (pa : Nat) (data : Word) : Routed :=
  if pa < s.cfg.memSize then
    match kind with
    | .read => .ok s (memRead s.mem pa width)
    | .write => .ok { s with mem := memWrite s.mem pa width data } 0#16
  else if s.cfg.ioPageBase ≤ pa then
    match s.lookup pa with
    | none => .nxm s
    | some w =>
      if w.dev = BLOCK then s.regAccess kind width (pa - s.cfg.ioPageBase) data
      else s.deviceAccess w.dev kind width (pa - w.base) data
  else .nxm s

/-- Route (43_bus R320): ODD_WORD_POLICY decides a word access at an odd address (20_memory R84). -/
def route (s : State) (kind : Kind) (width : Width) (pa : Nat) (data : Word) : Routed :=
  if width = .word ∧ pa % 2 = 1 then
    match s.cfg.oddWordPolicy with
    | .refuse => .refused s .oddWord
    | .alignDown => s.routeAt kind width (pa - 1) data
  else s.routeAt kind width pa data

/-! ## Taking a trap (41_trapunit R249 to R252, 60_exceptions R412)

The return from a trap is not a command of the block and the block keeps no in-handler state (60_exceptions R416): the
engine pops PC and PSW with ACCESS and reports the restored priority with INT_REEVALUATE. -/

/-- `KRead(va)`: a word read in kernel D space (41_trapunit R249). -/
def kRead (s : State) (pc va : Word) : KernelAccess :=
  match translate s .kernel .data .read .word va pc with
  | (s1, .error _) => .stop s1
  | (s1, .ok pa) =>
    match route s1 .read .word pa 0#16 with
    | .ok s2 v => .ok s2 v
    | .nxm s2 => .stop s2
    | .refused s2 why => .refused s2 why

/-- `KWrite(va, val)`: a word write in kernel D space (41_trapunit R249). -/
def kWrite (s : State) (pc va val : Word) : KernelAccess :=
  match translate s .kernel .data .write .word va pc with
  | (s1, .error _) => .stop s1
  | (s1, .ok pa) =>
    match route s1 .write .word pa val with
    | .ok s2 v => .ok s2 v
    | .nxm s2 => .stop s2
    | .refused s2 why => .refused s2 why

/-- Go on after one of DISPATCH's accesses, or end the command: a fault stops the run (41_trapunit R252). -/
def KernelAccess.andThen (k : KernelAccess) (f : State → Word → Ending) : Ending :=
  match k with
  | .ok s v => f s v
  | .stop s => .stop s
  | .refused s why => .refuse s why

/-- Trap entry through vector `V` (41_trapunit R250, R251; 60_exceptions R412): read the new PC and status, push the old
PSW and then the old PC on the kernel stack, form the new PSW in kernel mode, re-evaluate at the new priority, and answer
the new PC, PSW and KSP and the vector. -/
def State.enterTrap (s : State) (V pc psw ksp : Word) : Ending :=
  (kRead s pc V).andThen fun s1 newpc =>
  (kRead s1 pc (V + 2#16)).andThen fun s2 newps =>
  (kWrite s2 pc (ksp - 2#16) psw).andThen fun s3 _ =>
  (kWrite s3 pc (ksp - 4#16) pc).andThen fun s4 _ =>
    .answer (s4.reevaluate (pswIpl (newPsw psw newps)))
      (Answer.results .ok (result16 newpc) (result16 (newPsw psw newps)) (result16 (ksp - 4#16)) (result16 V))

end Sys2Proof.Machine
end

