-- ==== Sys2Proof/Machine/Bus.lean ====
section
/-! DEFINITION. The BusRouter and DeviceRegistry commands: ROUTE, ACCESS, DEV_REGISTER and DEV_UNREGISTER (43_bus). -/

namespace Sys2Proof.Machine

/-- ROUTE (43_bus R320): one physical access; it posts no trap bit. An address at or above `2^PAW` is refused
(30_encoding R127). -/
def execRoute (kind : Kind) (width : Width) (s : State) : Host.Outcome State Fault Refusal :=
  finish s <|
    if s.cfg.physTop ≤ s.opAAddr then .refuse s .badAddress
    else
      match route s kind width s.opAAddr s.opB16 with
      | .ok s1 v => .answer s1 (Answer.results .ok (result16 v) 0#32 0#32 0#32)
      | .nxm s1 => .answer s1 (Answer.bare .nxm)
      | .refused s1 why => .refuse s1 why

/-- The trap slot that ACCESS posts for a translation fault (43_bus R326, 41_trapunit R241). -/
def faultTrap : TransFault → TrapName
  | .odd => .odd
  | .nonResident => .mme
  | .pageLength => .mme
  | .readOnly => .mme

/-- ACCESS (43_bus R326): a translation, then a route, with the trap posted on failure. -/
def execAccess (mode : Mode) (space : Space) (kind : Kind) (width : Width) (s : State) :
    Host.Outcome State Fault Refusal :=
  finish s <|
    match translate s mode space kind width s.opA16 s.opC16 with
    | (s1, .error f) => .answer (s1.postNamed (faultTrap f)) (Answer.bare f.status)
    | (s1, .ok pa) =>
      match route s1 kind width pa s.opB16 with
      | .ok s2 v => .answer s2 (Answer.results .ok (result16 v) (resultNat pa) 0#32 0#32)
      | .nxm s2 => .answer (s2.postNamed .nxm) (Answer.bare .nxm)
      | .refused s2 why => .refuse s2 why

/-- Two half-open windows overlap (43_bus R331). -/
def overlaps (base limit : Nat) (w : Window) : Bool := decide (base < w.limit) && decide (w.base < limit)

/-- How many slots a level has (00_scope R10). -/
def slotCapacity (c : Config) (l : Level) : Nat := if 4 ≤ l.toNat then c.nslots else 0

/-- The lowest run of `n` free slots at a level (43_bus R332). -/
def State.freeRun (s : State) (l : Level) (n : Nat) : Option Nat :=
  (List.range (slotCapacity s.cfg l + 1)).find? fun k =>
    decide (k + n ≤ slotCapacity s.cfg l) && (List.range n).all (fun i => decide (s.ownerAt l (k + i) = none))

/-- The first slot that DEV_REGISTER assigns: 0 when it asks for none (43_bus R330). -/
def State.firstSlot (s : State) (l : Level) (n : Nat) : Option Nat :=
  if n = 0 then some 0 else s.freeRun l n

/-- A registration that succeeds (43_bus R330): the window is appended, and slots `k` to `k + n - 1` of level `l` go to
the device with vectors `vbase + 4*i`. -/
def State.register (s : State) (l : Level) (n k : Nat) (base limit : Nat) (dev : DevId) (vbase : Word) : State :=
  { s with
    windows := s.windows ++ [⟨base, limit, dev⟩]
    owner := s.owner.update fun l' j =>
      if l' = l ∧ k ≤ j ∧ j < k + n then some (some dev) else none
    vec := s.vec.update fun l' j =>
      if l' = l ∧ k ≤ j ∧ j < k + n then some (vbase + BitVec.ofNat 16 (4 * (j - k))) else none }

/-- DEV_REGISTER (43_bus R330). -/
def execDevRegister (level : Level) (count : BitVec 6) (s : State) : Host.Outcome State Fault Refusal :=
  finish s <|
    if s.opCDev = BLOCK ∨ s.opBAddr ≤ s.opAAddr ∨ s.cfg.physTop < s.opBAddr ∨ s.cfg.nslots < count.toNat then
      .refuse s .badRegistration
    else if s.windows.any (overlaps s.opAAddr s.opBAddr) = true then
      .answer { s with configError := true } (Answer.bare .overlap)
    else
      match s.firstSlot level count.toNat with
      | none => .answer { s with configError := true } (Answer.bare .slotsExhausted)
      | some k =>
        .answer (s.register level count.toNat k s.opAAddr s.opBAddr s.opCDev s.opD16)
          (Answer.results .ok (resultNat k) 0#32 0#32 0#32)

/-- Whether a slot exists and a device owns it (43_bus R334). -/
def State.slotHeldBy (s : State) (dev : DevId) (l : Level) (k : Nat) : Bool :=
  decide (k < s.cfg.nslots) && decide (s.ownerAt l k = some dev)

/-- The removal of a device (43_bus R334), before the re-evaluation: its windows, and owner, vector and pending bit of
its slots. -/
def State.unregister (s : State) (dev : DevId) : State :=
  { s with
    windows := s.windows.filter (fun w => decide (w.dev ≠ dev))
    owner := s.owner.update fun l k => if s.slotHeldBy dev l k = true then some none else none
    vec := s.vec.update fun l k => if s.slotHeldBy dev l k = true then some 0#16 else none
    pend := Vector.ofFn fun i =>
      s.pend[i] &&& ~~~(BitVec.ofFnLE fun k => s.slotHeldBy dev (BitVec.ofNat 3 i.val) k.val) }

/-- DEV_UNREGISTER (43_bus R334). -/
def execDevUnregister (s : State) : Host.Outcome State Fault Refusal :=
  finish s <|
    if s.opADev = BLOCK then .refuse s .builtinWindow
    else .answer ((s.unregister s.opADev).reevaluate s.iplShadow) (Answer.bare .ok)

end Sys2Proof.Machine
end

