-- ==== Sys2Proof/Machine/Interrupts.lean ====
section
/-! DEFINITION. The InterruptFabric commands: INT_REQUEST, INT_CANCEL, INT_REEVALUATE and INT_ACK (42_interrupts). -/

namespace Sys2Proof.Machine

/-- Whether a device may set or clear a slot's pending bit: a slot of levels 4 to 7 that exists and that it owns
(42_interrupts R280, R281). A command naming BLOCK may not (30_encoding R127, log 18). -/
def State.ownsSlot (s : State) (dev : DevId) (l : Level) (k : BitVec 5) : Bool :=
  decide (4 ≤ l.toNat) && decide (k.toNat < s.cfg.nslots) && decide (dev ≠ BLOCK) &&
  decide (s.ownerAt l k.toNat = some dev)

/-- INT_REQUEST (42_interrupts R280). -/
def execIntRequest (level : Level) (slot : BitVec 5) (s : State) : Host.Outcome State Fault Refusal :=
  finish s <|
    if s.ownsSlot s.opADev level slot = true then
      .answer ((s.setPend level (setBit (s.pendAt level) slot.toNat)).reevaluate s.iplShadow) (Answer.bare .ok)
    else .refuse s .unownedSlot

/-- INT_CANCEL (42_interrupts R282). -/
def execIntCancel (level : Level) (slot : BitVec 5) (s : State) : Host.Outcome State Fault Refusal :=
  finish s <|
    if s.ownsSlot s.opADev level slot = true then
      .answer ((s.setPend level (clearBit (s.pendAt level) slot.toNat)).reevaluate s.iplShadow) (Answer.bare .ok)
    else .refuse s .unownedSlot

/-- INT_REEVALUATE (42_interrupts R285): it answers `S.trapmask[15]` after. -/
def execIntReevaluate (ipl : Level) (s : State) : Host.Outcome State Fault Refusal :=
  finish s <|
    .answer (s.reevaluate ipl)
      (Answer.results .ok ((BitVec.ofBool ((s.reevaluate ipl).trapmask.getLsbD 15)).setWidth 32) 0#32 0#32 0#32)

/-- The answer of INT_ACK (42_interrupts R288): 0xFFFFFFFF stands for the slot of a software interrupt. -/
def ackAnswer (a : Ack) : Answer :=
  Answer.results .ok (result16 a.vector) (a.level.setWidth 32)
    (match a.slot with
     | some k => k.setWidth 32
     | none => 0xFFFFFFFF#32) 0#32

/-- INT_ACK (42_interrupts R288): the scan uses IPL, the re-evaluation the shadow. -/
def execIntAck (ipl : Level) (s : State) : Host.Outcome State Fault Refusal :=
  finish s <|
    match s.acknowledge ipl with
    | (s1, some a) => .answer (s1.reevaluate s1.iplShadow) (ackAnswer a)
    | (s1, none) => .answer (s1.reevaluate s1.iplShadow) (Answer.bare .none)

end Sys2Proof.Machine
end

