-- ==== Sys2Proof/Machine/PageTable.lean ====
section
/-! DEFINITION. The PageTable and FaultRecorder commands: TRANSLATE and SNAPSHOT (40_pagetable). -/

namespace Sys2Proof.Machine

/-- TRANSLATE (40_pagetable R200): a translation, reported. It posts no trap bit. -/
def execTranslate (mode : Mode) (space : Space) (kind : Kind) (width : Width) (s : State) :
    Host.Outcome State Fault Refusal :=
  finish s <|
    match translate s mode space kind width s.opA16 s.opB16 with
    | (s1, .ok pa) => .answer s1 (Answer.results .ok (resultNat pa) 0#32 0#32 0#32)
    | (s1, .error f) => .answer s1 (Answer.bare f.status)

/-- SNAPSHOT (40_pagetable R213): it reads the fault record and writes no state. -/
def execSnapshot (s : State) : Host.Outcome State Fault Refusal :=
  finish s <| .answer s
    (Answer.results .ok (resultNat s.fr.reason.code) (s.fr.slot.setWidth 32) (result16 s.fr.pc) 0#32)

end Sys2Proof.Machine
end

