-- ==== Sys2Proof/Machine/Reset.lean ====
section
/-! DEFINITION. The RESET command (70_reset_and_hazards R450 to R454). -/

namespace Sys2Proof.Machine

/-- The state RESET leaves (70_reset R450). The registry, memory and the model marks are kept. -/
def State.systemReset (s : State) : State :=
  { s with
    desc := Vector.replicate 64 Desc.zero
    enable := false
    ext := false
    fr := FaultRecord.empty
    trapmask := 0#16
    pend := Vector.replicate 8 0#32
    pirq := 0#7
    iplShadow := 7#3 }

/-- RESET (70_reset R450). -/
def execReset (s : State) : Host.Outcome State Fault Refusal :=
  finish s <| .answer s.systemReset (Answer.bare .ok)

end Sys2Proof.Machine
end

