-- ==== Sys2Proof/Machine/TrapUnit.lean ====
section
/-! DEFINITION. The TrapUnit commands: TRAP_POST, TRAP_HIGHEST and DISPATCH (41_trapunit). -/

namespace Sys2Proof.Machine

/-- TRAP_POST (41_trapunit R240). Slot 15 is refused. -/
def execTrapPost (tslot : BitVec 4) (s : State) : Host.Outcome State Fault Refusal :=
  finish s <|
    if tslot = 15#4 then .refuse s .slot15NotPostable
    else .answer (s.postTrap tslot.toNat) (Answer.bare .ok)

/-- TRAP_HIGHEST (41_trapunit R243): it reports the least pending slot and writes no state. -/
def execTrapHighest (s : State) : Host.Outcome State Fault Refusal :=
  finish s <|
    match s.highestPending with
    | some k => .answer s (Answer.results .ok (resultNat k) 0#32 0#32 0#32)
    | none => .answer s (Answer.bare .none)

/-- The answer NONE of DISPATCH: the operands unchanged (41_trapunit R253, R254). -/
def dispatchNone (s : State) : Answer :=
  Answer.results .none (result16 s.opA16) (result16 s.opB16) (result16 s.opC16) 0#32

/-- The state in which DISPATCH has chosen trap slot `k`: the slot is cleared unless it persists
(41_trapunit R247, R248). -/
def clearServiced (s : State) (k : Fin 15) : State :=
  if k ∈ s.cfg.persistSet then s else s.setTrapmask (clearBit s.trapmask k.val)

/-- DISPATCH (41_trapunit R250): service the highest-priority pending event. Slots 0 to 14 use their fixed vector; slot 15
uses the vector of Acknowledge at the PSW's priority, and with nothing to acknowledge it re-evaluates there and answers
NONE (R254). -/
def execDispatch (s : State) : Host.Outcome State Fault Refusal :=
  finish s <|
    match s.highestPending with
    | none => .answer s (dispatchNone s)
    | some k =>
      if h : k < 15 then
        (clearServiced s ⟨k, h⟩).enterTrap (s.cfg.trapTable[k]'h).vector s.opA16 s.opB16 s.opC16
      else
        match s.acknowledge (pswIpl s.opB16) with
        | (s1, some a) => s1.enterTrap a.vector s.opA16 s.opB16 s.opC16
        | (s1, none) => .answer (s1.reevaluate (pswIpl s.opB16)) (dispatchNone s)

end Sys2Proof.Machine
end

