-- ==== Sys2Proof/Machine/Dispatch.lean ====
section
/-! DEFINITION. The meaning of every command, one arm each (30_encoding R123). -/

namespace Sys2Proof.Machine

def exec (i : Instr) (s : State) : Host.Outcome State Fault Refusal :=
  match i with
  | .translate mode space kind width => Sys2Proof.Machine.execTranslate mode space kind width s
  | .route kind width => Sys2Proof.Machine.execRoute kind width s
  | .access mode space kind width => Sys2Proof.Machine.execAccess mode space kind width s
  | .snapshot => Sys2Proof.Machine.execSnapshot s
  | .trapPost tslot => Sys2Proof.Machine.execTrapPost tslot s
  | .trapHighest => Sys2Proof.Machine.execTrapHighest s
  | .dispatch => Sys2Proof.Machine.execDispatch s
  | .intRequest level slot => Sys2Proof.Machine.execIntRequest level slot s
  | .intCancel level slot => Sys2Proof.Machine.execIntCancel level slot s
  | .intReevaluate ipl => Sys2Proof.Machine.execIntReevaluate ipl s
  | .intAck ipl => Sys2Proof.Machine.execIntAck ipl s
  | .devRegister level count => Sys2Proof.Machine.execDevRegister level count s
  | .devUnregister => Sys2Proof.Machine.execDevUnregister s
  | .reset => Sys2Proof.Machine.execReset s

end Sys2Proof.Machine
end

