-- ==== Sys2Proof/Machine/Port.lean ====
section
/-! DEFINITION. The command port (30_encoding R120): taking the next command, decoding its word and performing it. -/

namespace Sys2Proof.Machine

/-- The state in which a command is performed: it is off the port's list, its operands are latched (log 5), and no
handler has been called for it yet (log 9). -/
def State.accept (s : State) (c : Command) (rest : List Command) : State :=
  { s with commands := rest, ops := c.ops, devCalls := [] }

/-- Perform one command word: an illegal one is answered REFUSED, sets `S.refused` and changes no other state
(30_encoding R128, R129, log 12). -/
def perform (cw : Word32) (s : State) : Host.Outcome State Fault Refusal :=
  match decode cw with
  | .ok i => exec i s
  | .error e => finish s (.refuse s (.illegalWord e))

/-- One step of the block: the oldest presented command, whole (20_memory R87, R93, R100). A stopped block has no step
(41_trapunit R252, 70_reset R469). With no command presented nothing happens (log 2). -/
def runPort (s : State) : Host.Outcome State Fault Refusal :=
  if s.stopped = true then .fault .stopped
  else
    match s.commands with
    | [] => .next s
    | c :: rest => perform c.cw (s.accept c rest)

/-- The port with a command word placed where the next step takes it: in the oldest presented command, whose operands
stay, or, where none is presented, as a command with operands 0 (log 3). -/
def State.presentWord (s : State) (cw : Word32) : State :=
  match s.commands with
  | [] => { s with commands := [⟨cw, ⟨0#32, 0#32, 0#32, 0#32⟩⟩] }
  | c :: rest => { s with commands := { c with cw := cw } :: rest }

/-- A command added to the presented ones, as the youngest (log 1). -/
def State.present (s : State) (c : Command) : State := { s with commands := s.commands ++ [c] }

end Sys2Proof.Machine
end

