-- ==== Sys2Proof/Machine/Step.lean ====
section
/-! DEFINITION. One step of the block (20_memory R100). -/

namespace Sys2Proof.Machine

/-- One command is one step (20_memory R100): see `runPort`. -/
def step (s : State) : Host.Outcome State Fault Refusal := runPort s

/-- The state with a command word stored where `step` takes its next one (log 3). -/
def State.withFetchWord (s : State) (nbits w : Nat) : State := s.presentWord (BitVec.ofNat 32 (w % 2 ^ nbits))

end Sys2Proof.Machine
end

