-- ==== Sys2Proof/Machine/Pseudo.lean ====
section
/-! DEFINITION. Commands as the assembler syntax writes them (30_encoding R131), and the pseudo-commands, each exactly its
expansion (R132). -/

namespace Sys2Proof.Machine

/-- A command from its instruction and its operands. -/
def Command.of (i : Instr) (a b c d : Word32) : Command := ⟨encode i, ⟨a, b, c, d⟩⟩

/-- `IOP + offset`: the physical address of a built-in register. -/
def regAddress (c : Config) (off : Nat) : Word32 := BitVec.ofNat 32 (c.ioPageBase + off)

/-- PDRBASE (10_state R51); mode 2 has no descriptor registers (R53). -/
def pdrBase : Mode → Option Nat
  | .kernel => some 0o12300
  | .supervisor => some 0o12200
  | .unused => none
  | .user => some 0o17600

/-- The offset of PDR(m, sp, p), `PDRBASE(m) + 0o20*sp + 2*p` (10_state R51). -/
def pdrOffset (m : Mode) (sp : Space) (p : BitVec 3) : Option Nat :=
  (pdrBase m).map (fun b => b + 0o20 * sp.code.toNat + 2 * p.toNat)

/-- The offset of PAR(m, sp, p), `PDRBASE(m) + 0o40 + 0o20*sp + 2*p` (10_state R52). -/
def parOffset (m : Mode) (sp : Space) (p : BitVec 3) : Option Nat :=
  (pdrBase m).map (fun b => b + 0o40 + 0o20 * sp.code.toNat + 2 * p.toNat)

namespace Pseudo

/-- `RD.<m>.<s> va, pc` -/
def rd (m : Mode) (sp : Space) (va pc : Word) : Command :=
  Command.of (.access m sp .read .word) (va.setWidth 32) 0#32 (pc.setWidth 32) 0#32
/-- `WR.<m>.<s> va, data, pc` -/
def wr (m : Mode) (sp : Space) (va data pc : Word) : Command :=
  Command.of (.access m sp .write .word) (va.setWidth 32) (data.setWidth 32) (pc.setWidth 32) 0#32
/-- `RDB.<m>.<s> va, pc` -/
def rdb (m : Mode) (sp : Space) (va pc : Word) : Command :=
  Command.of (.access m sp .read .byte) (va.setWidth 32) 0#32 (pc.setWidth 32) 0#32
/-- `WRB.<m>.<s> va, data, pc` -/
def wrb (m : Mode) (sp : Space) (va data pc : Word) : Command :=
  Command.of (.access m sp .write .byte) (va.setWidth 32) (data.setWidth 32) (pc.setWidth 32) 0#32
/-- `PRD pa` -/
def prd (pa : Word32) : Command := Command.of (.route .read .word) pa 0#32 0#32 0#32
/-- `PWR pa, data` -/
def pwr (pa : Word32) (data : Word) : Command := Command.of (.route .write .word) pa (data.setWidth 32) 0#32 0#32
/-- `SETPDR m, s, p, v` -/
def setPdr (c : Config) (m : Mode) (sp : Space) (p : BitVec 3) (v : Word) : Option Command :=
  (pdrOffset m sp p).map (fun off => pwr (regAddress c off) v)
/-- `SETPAR m, s, p, v` -/
def setPar (c : Config) (m : Mode) (sp : Space) (p : BitVec 3) (v : Word) : Option Command :=
  (parOffset m sp p).map (fun off => pwr (regAddress c off) v)
/-- `MMU_ON`; it also clears the fault record. -/
def mmuOn (c : Config) : Command := pwr (regAddress c 0o17572) 1#16
/-- `MMU_OFF`; it also clears the fault record. -/
def mmuOff (c : Config) : Command := pwr (regAddress c 0o17572) 0#16
/-- `EXT_ON` -/
def extOn (c : Config) : Command := pwr (regAddress c 0o12516) 0x10#16
/-- `SETPIRQ v` -/
def setPirq (c : Config) (v : Word) : Command := pwr (regAddress c 0o17772) v
/-- `CLRTRAP mask` -/
def clrTrap (c : Config) (mask : Word) : Command := pwr (regAddress c 0o17756) mask
/-- `SETIPL n` -/
def setIpl (n : Level) : Command := Command.of (.intReevaluate n) 0#32 0#32 0#32 0#32

end Pseudo

end Sys2Proof.Machine
end

