-- ==== Sys2Proof/Safety.lean ====
section
/-! DEFINITION. What counts as a safe run (00_scope R20, R21), the invariant of the block's states, and the terms the
obligations are written in, spelled from the rules' text. -/

namespace Sys2Proof.Machine

/-! ## Safe runs -/

/-- A run within the hardware's defined behaviour so far: no refusal, no stop, no failed registration
(00_scope R20, R21; 10_state R47). -/
abbrev State.Good (s : State) : Prop := s.refused = false ∧ s.stopped = false ∧ s.configError = false

/-- The state without the two marks that no command reads (10_state R47; the save state of 70_reset R456). -/
def State.eraseMarks (s : State) : State := { s with refused := false, configError := false }

/-! ## The invariant -/

/-- A request, of a device or of software, above a priority (42_interrupts R283, R284). -/
abbrev State.requestAbove (s : State) (ipl : Level) : Prop :=
  ∃ l : Level, ipl < l ∧ (s.pendAt l ≠ 0#32 ∨ s.pirqAt l = true)

/-- What holds of a block from construction on. -/
structure State.Inv (s : State) : Prop where
  /-- The parameters are a choice that the spec admits (00_scope R6 to R15). -/
  params : s.cfg.WF
  /-- Memory is in canonical form. -/
  memForm : Memory.wf s.mem
  /-- Only installed memory holds bytes (20_memory R89). -/
  memInstalled : ∀ c ∈ s.mem, c.1 < s.cfg.memSize
  /-- `base < limit ≤ 2^PAW` (10_state R45). -/
  windowBounds : ∀ w ∈ s.windows, w.base < w.limit ∧ w.limit ≤ 2 ^ s.cfg.paw.bits
  /-- No two windows overlap (10_state R45). -/
  windowsApart : s.windows.Pairwise (fun w v => w.limit ≤ v.base ∨ v.limit ≤ w.base)
  /-- The built-in windows are present (10_state R56, 43_bus R336). -/
  builtinPresent : ∀ w ∈ builtinWindows s.cfg, w ∈ s.windows
  /-- The block owns no other window (10_state R56). -/
  builtinOnly : ∀ w ∈ s.windows, w.dev = BLOCK → w ∈ builtinWindows s.cfg
  /-- A slot that is owned exists, and is not the block's (10_state R42, 30_encoding R125). -/
  slotsExist : ∀ (l : Level) (k : Fin 32), s.ownerAt l k.val ≠ none →
    4 ≤ l.toNat ∧ k.val < s.cfg.nslots ∧ s.ownerAt l k.val ≠ some BLOCK
  /-- A FREE slot has vector 0 (10_state R42, 43_bus R334). -/
  freeVector : ∀ (l : Level) (k : Fin 32), s.ownerAt l k.val = none → s.vecAt l k.val = 0#16
  /-- Only an owned slot is pending; so none at levels 0 to 3 (10_state R41, 42_interrupts R281, R293). -/
  pendOwned : ∀ (l : Level) (k : Fin 32), (s.pendAt l).getLsbD k.val = true → s.ownerAt l k.val ≠ none
  /-- The descriptors of mode 2 keep their reset value (10_state R53). -/
  modeTwo : ∀ slot : BitVec 6, slot.extractLsb' 4 2 = 2#2 → s.descAt slot = Desc.zero
  /-- `S.ext` is hardwired 0 at PAW = 18 (10_state R38). -/
  extHardwired : s.cfg.paw = .legacy18 → s.ext = false
  /-- A record that is not frozen is empty (10_state R39, 40_pagetable R214). -/
  recordEmpty : s.fr.reason = .none → s.fr = FaultRecord.empty
  /-- `S.trapmask[15]` is not stale against `S.ipl_shadow` (42_interrupts R294); a stopped block's state is not
  specified (41_trapunit R252). -/
  aggregateFresh : s.stopped = false → (s.trapmask.getLsbD 15 = true ↔ s.requestAbove s.iplShadow)

/-! ## Terms of the obligations -/

/-- The MODE code (10_state R35). -/
def modeNumber : Mode → Nat
  | .kernel => 0
  | .supervisor => 1
  | .unused => 2
  | .user => 3

/-- The SPACE code (10_state R35). -/
def spaceNumber : Space → Nat
  | .instruction => 0
  | .data => 1

/-- `slot` is the descriptor slot of an access (10_state R35). -/
abbrev IsSlot (slot : BitVec 6) (mode : Mode) (space : Space) (va : Word) : Prop :=
  slot.toNat = 16 * modeNumber mode + 8 * spaceNumber space + va.toNat / 8192

/-- VA[12:6] is within a page's length: blocks 0 to plf, or plf to 127 (40_pagetable R204). -/
abbrev InLength (d : Desc) (va : Word) : Prop :=
  if d.ed = true then d.plf.toNat ≤ va.toNat / 64 % 128 else va.toNat / 64 % 128 ≤ d.plf.toNat

/-- The physical address of a translation through relocation `paf` (40_pagetable R207). -/
def relocatedAddress (paw : PhysWidth) (ext : Bool) (va paf : Word) : Nat :=
  match paw, ext with
  | .legacy18, _ => (va.toNat % 8192 + 64 * paf.toNat) % 0x40000
  | .extended22, true => (va.toNat % 8192 + 64 * paf.toNat) % 0x400000
  | .extended22, false =>
    if (va.toNat % 8192 + 64 * paf.toNat) % 0x40000 < 0x3E000 then (va.toNat % 8192 + 64 * paf.toNat) % 0x40000
    else (va.toNat % 8192 + 64 * paf.toNat) % 0x40000 + 0x3C0000

/-- The fixed widening with translation disabled (40_pagetable R208). -/
def widenedAddress (paw : PhysWidth) (va : Word) : Nat :=
  if va.toNat < 0xE000 then va.toNat
  else match paw with
    | .legacy18 => 0x3E000 + (va.toNat - 0xE000)
    | .extended22 => 0x3FE000 + (va.toNat - 0xE000)

/-- An access of a mode, space and kind at `va` translates, through descriptor `slot` when translation is enabled, to
`pa` (40_pagetable R200 to R208), alignment apart. -/
abbrev State.Maps (s : State) (slot : BitVec 6) (kind : Kind) (va : Word) (pa : Nat) : Prop :=
  (s.enable = false ∧ pa = widenedAddress s.cfg.paw va) ∨
  (s.enable = true ∧ (s.descAt slot).r = true ∧ InLength (s.descAt slot) va ∧
    (kind = .write → (s.descAt slot).w = true) ∧
    pa = relocatedAddress s.cfg.paw s.ext va (s.descAt slot).paf)

/-- The descriptors after a successful write translation through `slot` (40_pagetable R206). -/
def State.written (s : State) (slot : BitVec 6) : Vector Desc 64 :=
  if s.enable = true then s.desc.set slot.toNat { s.descAt slot with wr := true } slot.isLt else s.desc

/-- Operand A of ROUTE is the address of the built-in register at an offset of the I/O page (10_state §6). -/
abbrev State.AddressesRegister (s : State) (off : Nat) : Prop :=
  s.ops.a.toNat = 2 ^ s.cfg.paw.bits - 8192 + off

/-- Operand A of ROUTE is an address in a built-in window (10_state R56). -/
abbrev State.AddressesBuiltin (s : State) : Prop :=
  ∃ w ∈ s.windows, w.dev = BLOCK ∧ w.base ≤ s.ops.a.toNat ∧ s.ops.a.toNat < w.limit

/-- PDRBASE, the offset of a mode's descriptor registers (10_state R51, R53). -/
def descriptorBase : Mode → Option Nat
  | .kernel => some 0o12300
  | .supervisor => some 0o12200
  | .unused => none
  | .user => some 0o17600

/-- The trap slot that the table names `n` (00_scope R12). -/
abbrev IsTrapSlot (c : Config) (n : TrapName) (k : Fin 15) : Prop := c.trapTable[k].name = n

/-- A kernel D-space word access of DISPATCH reaches the memory word at `pa` (41_trapunit R249). -/
def State.KernelWord (s : State) (kind : Kind) (va : Word) (pa : Nat) : Prop :=
  va.getLsbD 0 = false ∧ pa < s.cfg.memSize ∧
  ∃ slot, IsSlot slot .kernel .data va ∧ s.Maps slot kind va pa

/-- The four memory words that a trap entry through `V` with kernel stack pointer `ksp` uses: new PC, new status, old
PSW, old PC (41_trapunit R250). -/
structure State.EntryWords (s : State) (V ksp : Word) (v1 v2 p1 p2 : Nat) : Prop where
  newPc : s.KernelWord .read V v1
  newStatus : s.KernelWord .read (V + 2#16) v2
  oldPsw : s.KernelWord .write (ksp - 2#16) p1
  oldPc : s.KernelWord .write (ksp - 4#16) p2

/-- A byte of memory after the word `v` is stored at `pa`, little-endian (20_memory R81). -/
def storedByte (v : Word) (pa a : Nat) (old : Byte) : Byte :=
  if a = pa then v.extractLsb' 0 8 else if a = pa + 1 then v.extractLsb' 8 8 else old

/-- What DISPATCH does when it enters a trap through vector `V` (41_trapunit R250, R251): `s` is the state with the event
chosen, `t` the state it leaves. -/
structure EntersTrap (s t : State) (V pc psw ksp : Word) (v1 v2 p1 p2 : Nat) : Prop where
  /-- The answer: the new PC, the new PSW with mode kernel and the old mode as the previous one, KSP - 4, the vector. -/
  answer : ∃ newps newpsw : Word,
    newps = s.mem.read (v2 + 1) ++ s.mem.read v2 ∧
    newpsw.extractLsb' 14 2 = 0#2 ∧ newpsw.extractLsb' 12 2 = psw.extractLsb' 14 2 ∧
    newpsw.extractLsb' 0 12 = newps.extractLsb' 0 12 ∧
    t.iplShadow = newps.extractLsb' 5 3 ∧
    t.answer = some ⟨.ok, (s.mem.read (v1 + 1) ++ s.mem.read v1 : Word).setWidth 32, newpsw.setWidth 32,
      (ksp - 4#16).setWidth 32, V.setWidth 32, none⟩
  /-- The old PSW is pushed first, then the old PC; no other byte of memory changes. -/
  memory : ∀ a, t.mem.read a = storedByte pc p2 a (storedByte psw p1 a (s.mem.read a))
  /-- The pushes set the W bits of the pages they go through. -/
  descriptors : ∀ slot : BitVec 6, t.descAt slot =
    if s.enable = true ∧ (IsSlot slot .kernel .data (ksp - 2#16) ∨ IsSlot slot .kernel .data (ksp - 4#16)) then
      { s.descAt slot with wr := true } else s.descAt slot
  /-- Bit 15 is re-evaluated at the new priority (R255); no other trap bit changes. -/
  interruptBit : t.trapmask.getLsbD 15 = true ↔ t.requestAbove t.iplShadow
  trapBits : ∀ j < 15, t.trapmask.getLsbD j = s.trapmask.getLsbD j
  /-- Nothing else changes. -/
  frame : t = { s with desc := t.desc, trapmask := t.trapmask, iplShadow := t.iplShadow, mem := t.mem, answer := t.answer }

end Sys2Proof.Machine
end

