-- ==== Sys2Proof/Certificates/Slice0/Obligations.lean ====
section
/-! DEFINITION. The statements for the provers. Each docstring names the rules a statement formalises. In every statement
the field that holds an answer (log 4), the reason that a refused answer carries (log 11) and the reading of a refusal as a
next state (log 12) are the model's. -/

open Sys2Proof Sys2Proof.Machine

/-! ## Encoding and the port -/

/-- Encoding loses nothing: decoding the command word of any command gives the command back
(30_encoding R121 to R123). -/
def Obligations.DecodeOfEncodeIsIdentity : Prop :=
  ∀ i : Instr, decode (encode i) = .ok i

/-- Every word selects the one row of the opcode map whose mask and match it fits, or is illegal (30_encoding R130, with
the masks of R122 and the matches of R123). -/
def Obligations.DecodeSelectsExactlyTheMatchingRow : Prop :=
  ∀ w : Word32,
    (w &&& 0xFC1FFFFF#32 = 0x04000000#32 ↔ ∃ m s k x, decode w = .ok (.translate m s k x)) ∧
    (w &&& 0xFF9FFFFF#32 = 0x08000000#32 ↔ ∃ k x, decode w = .ok (.route k x)) ∧
    (w &&& 0xFC1FFFFF#32 = 0x0C000000#32 ↔ ∃ m s k x, decode w = .ok (.access m s k x)) ∧
    (w = 0x10000000#32 ↔ decode w = .ok .snapshot) ∧
    (w &&& 0xFFFFFFF0#32 = 0x20000000#32 ↔ ∃ t, decode w = .ok (.trapPost t)) ∧
    (w = 0x24000000#32 ↔ decode w = .ok .trapHighest) ∧
    (w = 0x28000000#32 ↔ decode w = .ok .dispatch) ∧
    (w &&& 0xFFE01FFF#32 = 0x40000000#32 ↔ ∃ l k, decode w = .ok (.intRequest l k)) ∧
    (w &&& 0xFFE01FFF#32 = 0x44000000#32 ↔ ∃ l k, decode w = .ok (.intCancel l k)) ∧
    (w &&& 0xFFFFFFF8#32 = 0x48000000#32 ↔ ∃ p, decode w = .ok (.intReevaluate p)) ∧
    (w &&& 0xFFFFFFF8#32 = 0x4C000000#32 ↔ ∃ p, decode w = .ok (.intAck p)) ∧
    (w &&& 0xFFE00FFF#32 = 0x60000000#32 ↔ ∃ l n, decode w = .ok (.devRegister l n)) ∧
    (w = 0x64000000#32 ↔ decode w = .ok .devUnregister) ∧
    (w = 0xFC000000#32 ↔ decode w = .ok .reset)

/-- The fields of a decoded command are the bits that 30_encoding R121 gives them. -/
def Obligations.DecodedFieldsAreTheirBits : Prop :=
  ∀ (w : Word32) (i : Instr), decode w = .ok i →
    match i with
    | .translate m s k x => modeNumber m = (w.extractLsb' 24 2).toNat ∧ spaceNumber s = (w.extractLsb' 23 1).toNat ∧
        (k = .write ↔ w.getLsbD 22 = true) ∧ (x = .byte ↔ w.getLsbD 21 = true)
    | .route k x => (k = .write ↔ w.getLsbD 22 = true) ∧ (x = .byte ↔ w.getLsbD 21 = true)
    | .access m s k x => modeNumber m = (w.extractLsb' 24 2).toNat ∧ spaceNumber s = (w.extractLsb' 23 1).toNat ∧
        (k = .write ↔ w.getLsbD 22 = true) ∧ (x = .byte ↔ w.getLsbD 21 = true)
    | .snapshot => w.extractLsb' 26 6 = 0x04#6
    | .trapPost t => t = w.extractLsb' 0 4
    | .trapHighest => w.extractLsb' 26 6 = 0x09#6
    | .dispatch => w.extractLsb' 26 6 = 0x0A#6
    | .intRequest l k => l = w.extractLsb' 18 3 ∧ k = w.extractLsb' 13 5
    | .intCancel l k => l = w.extractLsb' 18 3 ∧ k = w.extractLsb' 13 5
    | .intReevaluate p => p = w.extractLsb' 0 3
    | .intAck p => p = w.extractLsb' 0 3
    | .devRegister l n => l = w.extractLsb' 18 3 ∧ n = w.extractLsb' 12 6
    | .devUnregister => w.extractLsb' 26 6 = 0x19#6
    | .reset => w.extractLsb' 26 6 = 0x3F#6

/-- The example encodings of 30_encoding R133. -/
def Obligations.SpecExampleWordsDecode : Prop :=
  decode 0x0CC00000#32 = .ok (.access .kernel .data .write .word) ∧
  decode 0x0FA00000#32 = .ok (.access .user .data .read .byte) ∧
  decode 0x40146000#32 = .ok (.intRequest 5#3 3#5) ∧
  decode 0x60142000#32 = .ok (.devRegister 5#3 2#6) ∧
  decode 0x48000003#32 = .ok (.intReevaluate 3#3) ∧
  decode 0x20000006#32 = .ok (.trapPost 6#4)

/-- A step performs the oldest presented command whole, with its operands latched; with none presented it changes nothing
(30_encoding R120, 20_memory R100; the port's fields and the idle step are the model's, log 1, log 2, log 5, log 9). -/
def Obligations.StepPerformsTheOldestCommand : Prop :=
  (∀ (s : State) (c : Command) (rest : List Command) (i : Instr),
    s.stopped = false → s.commands = c :: rest → decode c.cw = .ok i →
    step s = exec i { s with commands := rest, ops := c.ops, devCalls := [] }) ∧
  (∀ s : State, s.stopped = false → s.commands = [] → step s = .next s)

/-- An illegal command word is answered REFUSED, sets `S.refused` and changes no other state of the block
(30_encoding R128, R129; the reason in the answer is the model's, log 11). -/
def Obligations.IllegalWordIsRefused : Prop :=
  ∀ (s : State) (c : Command) (rest : List Command) (e : DecodeError),
    s.stopped = false → s.commands = c :: rest → decode c.cw = .error e →
    step s = .next { s with
      commands := rest, ops := c.ops, devCalls := [], refused := true
      answer := some ⟨.refused, 0#32, 0#32, 0#32, 0#32, some (.illegalWord e)⟩ }

/-- After DOUBLE_FAULT no command has a step (70_reset R469); that such a step is a fault is the model's (log 13). -/
def Obligations.StoppedBlockHasNoStep : Prop :=
  ∀ s : State, s.stopped = true → step s = .fault .stopped

/-- Every command is answered, whatever the state: it leaves the parameters (70_reset R451), the waiting commands and the
operands alone, and clears no model mark (10_state R47). That every ending is a next state with an answer is the model's
(log 4, log 12, log 13). -/
def Obligations.EveryCommandIsAnswered : Prop :=
  ∀ (i : Instr) (s : State), ∃ (t : State) (a : Answer),
    exec i s = .next t ∧ t.answer = some a ∧ t.cfg = s.cfg ∧ t.commands = s.commands ∧ t.ops = s.ops ∧
    (s.refused = true → t.refused = true) ∧ (s.configError = true → t.configError = true) ∧
    (s.stopped = true → t.stopped = true)

/-! ## TRANSLATE and SNAPSHOT -/

/-- A word TRANSLATE of an odd virtual address, with ENFORCE_ODD, ends with ODDADDRESS and writes no state, whether
translation is enabled or not (40_pagetable R201). -/
def Obligations.TranslateOddWordFails : Prop :=
  ∀ (s : State) (m : Mode) (sp : Space) (k : Kind),
    s.cfg.enforceOdd = true → s.ops.a.getLsbD 0 = true →
    exec (.translate m sp k .word) s =
      .next { s with answer := some ⟨.oddAddress, 0#32, 0#32, 0#32, 0#32, none⟩ }

/-- With translation disabled TRANSLATE answers the fixed widening, whatever the mode, space and kind, and writes no state
(40_pagetable R208). -/
def Obligations.TranslateDisabledWidens : Prop :=
  ∀ (s : State) (m : Mode) (sp : Space) (k : Kind) (x : Width),
    s.enable = false → (x = .word → s.cfg.enforceOdd = true → s.ops.a.getLsbD 0 = false) →
    exec (.translate m sp k x) s =
      .next { s with
        answer := some ⟨.ok, BitVec.ofNat 32 (widenedAddress s.cfg.paw (s.ops.a.setWidth 16)), 0#32, 0#32, 0#32, none⟩ }

/-- With translation enabled the first check that fails, in the order non-resident, page length, read-only, gives the
status; it is latched, with the slot and the PC operand, unless the record is frozen; nothing else is written
(40_pagetable R203 to R205, R209 to R211). -/
def Obligations.TranslateEnabledFaults : Prop :=
  ∀ (s : State) (m : Mode) (sp : Space) (k : Kind) (x : Width) (slot : BitVec 6),
    s.enable = true → (x = .word → s.cfg.enforceOdd = true → s.ops.a.getLsbD 0 = false) →
    IsSlot slot m sp (s.ops.a.setWidth 16) →
    ((s.descAt slot).r = false →
      exec (.translate m sp k x) s = .next { s with
        fr := if s.fr.reason = .none then ⟨.nonResident, slot, s.ops.b.setWidth 16⟩ else s.fr
        answer := some ⟨.nonResident, 0#32, 0#32, 0#32, 0#32, none⟩ }) ∧
    ((s.descAt slot).r = true → ¬ InLength (s.descAt slot) (s.ops.a.setWidth 16) →
      exec (.translate m sp k x) s = .next { s with
        fr := if s.fr.reason = .none then ⟨.pageLength, slot, s.ops.b.setWidth 16⟩ else s.fr
        answer := some ⟨.pageLength, 0#32, 0#32, 0#32, 0#32, none⟩ }) ∧
    ((s.descAt slot).r = true → InLength (s.descAt slot) (s.ops.a.setWidth 16) → k = .write →
      (s.descAt slot).w = false →
      exec (.translate m sp k x) s = .next { s with
        fr := if s.fr.reason = .none then ⟨.readOnly, slot, s.ops.b.setWidth 16⟩ else s.fr
        answer := some ⟨.readOnly, 0#32, 0#32, 0#32, 0#32, none⟩ })

/-- With translation enabled a TRANSLATE that passes every check answers the relocated address; a write sets the slot's W
bit, and nothing else is written (40_pagetable R202, R206, R207). -/
def Obligations.TranslateEnabledRelocates : Prop :=
  ∀ (s : State) (m : Mode) (sp : Space) (k : Kind) (x : Width) (slot : BitVec 6),
    s.enable = true → (x = .word → s.cfg.enforceOdd = true → s.ops.a.getLsbD 0 = false) →
    IsSlot slot m sp (s.ops.a.setWidth 16) → (s.descAt slot).r = true →
    InLength (s.descAt slot) (s.ops.a.setWidth 16) → (k = .write → (s.descAt slot).w = true) →
    exec (.translate m sp k x) s = .next { s with
      desc := if k = .write then s.desc.set slot.toNat { s.descAt slot with wr := true } slot.isLt else s.desc
      answer := some ⟨.ok, BitVec.ofNat 32
        (relocatedAddress s.cfg.paw s.ext (s.ops.a.setWidth 16) (s.descAt slot).paf), 0#32, 0#32, 0#32, none⟩ }

/-- Totality: TRANSLATE ends in OK with an address below `2^PAW` or in one of the four fault statuses, and is never
refused or stopped (40_pagetable R212). -/
def Obligations.TranslateIsTotal : Prop :=
  ∀ (s : State) (m : Mode) (sp : Space) (k : Kind) (x : Width), ∃ (t : State) (a : Answer),
    exec (.translate m sp k x) s = .next t ∧ t.answer = some a ∧
    t.refused = s.refused ∧ t.stopped = s.stopped ∧
    ((a.status = .ok ∧ a.q0.toNat < 2 ^ s.cfg.paw.bits) ∨
     ((a.status = .oddAddress ∨ a.status = .nonResident ∨ a.status = .pageLength ∨ a.status = .readOnly) ∧
      a.q0 = 0#32))

/-- Freeze: once a fault is latched, no command but DISPATCH, which makes several accesses, changes the record except by
clearing it (40_pagetable R210, R214, R215). -/
def Obligations.FrozenRecordIsKeptOrCleared : Prop :=
  ∀ (i : Instr) (s t : State), i ≠ .dispatch → exec i s = .next t → s.fr.reason ≠ .none →
    t.fr = s.fr ∨ t.fr = ⟨.none, 0#6, 0#16⟩

/-- SNAPSHOT answers the reason code, the slot and the latched PC, and writes no state (40_pagetable R213). -/
def Obligations.SnapshotReportsTheRecord : Prop :=
  ∀ s : State, ∃ code : Word32,
    exec .snapshot s = .next { s with
      answer := some ⟨.ok, code, s.fr.slot.setWidth 32, s.fr.pc.setWidth 32, 0#32, none⟩ } ∧
    (s.fr.reason = .none → code = 0#32) ∧ (s.fr.reason = .nonResident → code = 1#32) ∧
    (s.fr.reason = .pageLength → code = 2#32) ∧ (s.fr.reason = .readOnly → code = 3#32)

/-- The dirty bit: a set W bit survives every command that makes no write access, RESET apart, and a clear one is set only
by a command that can translate a write (10_state R36, 40_pagetable R206). -/
def Obligations.DirtyBitChangesOnlyByWrites : Prop :=
  ∀ (i : Instr) (s t : State) (slot : BitVec 6), exec i s = .next t →
    (i ≠ .reset → i ≠ .dispatch → (∀ x, i ≠ .route .write x) → (∀ m sp x, i ≠ .access m sp .write x) →
      (s.descAt slot).wr = true → (t.descAt slot).wr = true) ∧
    ((s.descAt slot).wr = false → (t.descAt slot).wr = true →
      i = .dispatch ∨ ∃ m sp x, i = .translate m sp .write x ∨ i = .access m sp .write x)

/-! ## The register surface -/

/-- SR0 reads the record's reason in bits 15:13, its slot in bits 6:1 and ENABLE in bit 0, without side effect
(10_state R48, 44_register_surface R361). -/
def Obligations.Sr0ReadShowsRecordAndEnable : Prop :=
  ∀ s : State, s.Inv → s.AddressesRegister 0o17572 → ∃ v : Word,
    exec (.route .read .word) s = .next { s with answer := some ⟨.ok, v.setWidth 32, 0#32, 0#32, 0#32, none⟩ } ∧
    v.getLsbD 15 = decide (s.fr.reason = .nonResident) ∧ v.getLsbD 14 = decide (s.fr.reason = .pageLength) ∧
    v.getLsbD 13 = decide (s.fr.reason = .readOnly) ∧ v.extractLsb' 7 6 = 0#6 ∧
    v.extractLsb' 5 2 = s.fr.slot.extractLsb' 4 2 ∧ v.getLsbD 4 = s.fr.slot.getLsbD 3 ∧
    v.extractLsb' 1 3 = s.fr.slot.extractLsb' 0 3 ∧ v.getLsbD 0 = s.enable

/-- An SR0 write sets ENABLE from bit 0 and clears the record exactly when bits 15:13 are 000
(44_register_surface R362, 40_pagetable R214). -/
def Obligations.Sr0WriteSetsEnableAndClears : Prop :=
  ∀ (s : State) (v : Word), s.Inv → s.AddressesRegister 0o17572 → v = s.ops.b.setWidth 16 →
    exec (.route .write .word) s = .next { s with
      enable := v.getLsbD 0
      fr := if v.extractLsb' 13 3 = 0#3 then ⟨.none, 0#6, 0#16⟩ else s.fr
      answer := some ⟨.ok, 0#32, 0#32, 0#32, 0#32, none⟩ }

/-- SR2 reads the latched PC and ignores writes (44_register_surface R363, R364). -/
def Obligations.Sr2ReadsPcIgnoresWrites : Prop :=
  ∀ s : State, s.Inv → s.AddressesRegister 0o17576 →
    exec (.route .read .word) s = .next { s with
      answer := some ⟨.ok, s.fr.pc.setWidth 32, 0#32, 0#32, 0#32, none⟩ } ∧
    exec (.route .write .word) s = .next { s with answer := some ⟨.ok, 0#32, 0#32, 0#32, 0#32, none⟩ }

/-- SR3 holds EXT in bit 4 at PAW = 22 and is 0 with writes ignored at PAW = 18
(44_register_surface R365, R366). -/
def Obligations.Sr3HoldsExt : Prop :=
  ∀ s : State, s.Inv → s.AddressesRegister 0o12516 →
    exec (.route .read .word) s = .next { s with
      answer := some ⟨.ok, if s.ext = true then 0x10#32 else 0#32, 0#32, 0#32, 0#32, none⟩ } ∧
    exec (.route .write .word) s = .next { s with
      ext := if s.cfg.paw = .extended22 then s.ops.b.getLsbD 4 else s.ext
      answer := some ⟨.ok, 0#32, 0#32, 0#32, 0#32, none⟩ } ∧
    (s.cfg.paw = .legacy18 → s.ext = false)

/-- A PDR word reads its descriptor's fields without side effect; a write sets PLF, ED, WRITABLE and READABLE and clears
the W bit, of that slot alone (10_state R51, 44_register_surface R367, R368). -/
def Obligations.PdrReadsAndWrites : Prop :=
  ∀ (s : State) (m : Mode) (sp : Space) (p : BitVec 3) (base : Nat) (slot : BitVec 6) (v : Word), s.Inv →
    descriptorBase m = some base → s.AddressesRegister (base + 0o20 * spaceNumber sp + 2 * p.toNat) →
    slot.toNat = 16 * modeNumber m + 8 * spaceNumber sp + p.toNat → v = s.ops.b.setWidth 16 →
    (∃ u : Word, exec (.route .read .word) s =
        .next { s with answer := some ⟨.ok, u.setWidth 32, 0#32, 0#32, 0#32, none⟩ } ∧
      u.getLsbD 15 = false ∧ u.extractLsb' 8 7 = (s.descAt slot).plf ∧ u.getLsbD 7 = false ∧
      u.getLsbD 6 = (s.descAt slot).wr ∧ u.extractLsb' 4 2 = 0#2 ∧ u.getLsbD 3 = (s.descAt slot).ed ∧
      u.getLsbD 2 = (s.descAt slot).w ∧ u.getLsbD 1 = (s.descAt slot).r ∧ u.getLsbD 0 = false) ∧
    exec (.route .write .word) s = .next { s with
      desc := s.desc.set slot.toNat
        ⟨(s.descAt slot).paf, v.extractLsb' 8 7, v.getLsbD 3, v.getLsbD 2, v.getLsbD 1, false⟩ slot.isLt
      answer := some ⟨.ok, 0#32, 0#32, 0#32, 0#32, none⟩ }

/-- A PAR word reads its descriptor's PAF without side effect; a write sets the PAF and clears the W bit, of that slot
alone (10_state R52, 44_register_surface R369, R370). -/
def Obligations.ParReadsAndWrites : Prop :=
  ∀ (s : State) (m : Mode) (sp : Space) (p : BitVec 3) (base : Nat) (slot : BitVec 6), s.Inv →
    descriptorBase m = some base → s.AddressesRegister (base + 0o40 + 0o20 * spaceNumber sp + 2 * p.toNat) →
    slot.toNat = 16 * modeNumber m + 8 * spaceNumber sp + p.toNat →
    exec (.route .read .word) s = .next { s with
      answer := some ⟨.ok, (s.descAt slot).paf.setWidth 32, 0#32, 0#32, 0#32, none⟩ } ∧
    exec (.route .write .word) s = .next { s with
      desc := s.desc.set slot.toNat { s.descAt slot with paf := s.ops.b.setWidth 16, wr := false } slot.isLt
      answer := some ⟨.ok, 0#32, 0#32, 0#32, 0#32, none⟩ }

/-- PIRQ reads its request bits and, twice, the highest requested level (44_register_surface R374, R375; 10_state R54). -/
def Obligations.PirqReadShowsRequestsAndPia : Prop :=
  ∀ s : State, s.Inv → s.AddressesRegister 0o17772 → ∃ (v : Word) (pia : Level),
    exec (.route .read .word) s = .next { s with answer := some ⟨.ok, v.setWidth 32, 0#32, 0#32, 0#32, none⟩ } ∧
    (∀ l : Level, l ≠ 0#3 → v.getLsbD (8 + l.toNat) = s.pirq.getLsbD (l.toNat - 1)) ∧
    v.getLsbD 8 = false ∧ v.extractLsb' 5 3 = pia ∧ v.getLsbD 4 = false ∧ v.extractLsb' 1 3 = pia ∧
    v.getLsbD 0 = false ∧
    (∀ l : Level, pia < l → s.pirq.getLsbD (l.toNat - 1) = false) ∧
    (pia ≠ 0#3 → s.pirq.getLsbD (pia.toNat - 1) = true)

/-- A PIRQ write sets the seven request bits and re-evaluates at the shadow priority; nothing else changes
(44_register_surface R376). -/
def Obligations.PirqWriteReevaluates : Prop :=
  ∀ s : State, s.Inv → s.AddressesRegister 0o17772 → ∃ t : State,
    exec (.route .write .word) s = .next t ∧
    (∀ l : Level, l ≠ 0#3 → t.pirq.getLsbD (l.toNat - 1) = s.ops.b.getLsbD (8 + l.toNat)) ∧
    (t.trapmask.getLsbD 15 = true ↔ t.requestAbove s.iplShadow) ∧
    (∀ j < 15, t.trapmask.getLsbD j = s.trapmask.getLsbD j) ∧
    t = { s with pirq := t.pirq, trapmask := t.trapmask, answer := some ⟨.ok, 0#32, 0#32, 0#32, 0#32, none⟩ }

/-- TRAPCLR reads the trap mask; a write clears exactly the written bits whose slot is in PERSIST_SET
(44_register_surface R377, R378). -/
def Obligations.TrapclrReadsAndClearsPersistent : Prop :=
  ∀ s : State, s.Inv → s.AddressesRegister 0o17756 →
    exec (.route .read .word) s = .next { s with
      answer := some ⟨.ok, s.trapmask.setWidth 32, 0#32, 0#32, 0#32, none⟩ } ∧
    ∃ t : State, exec (.route .write .word) s = .next t ∧
      (∀ k : Fin 15, t.trapmask.getLsbD k.val =
        (s.trapmask.getLsbD k.val && !(s.ops.b.getLsbD k.val && decide (k ∈ s.cfg.persistSet)))) ∧
      t.trapmask.getLsbD 15 = s.trapmask.getLsbD 15 ∧
      t = { s with trapmask := t.trapmask, answer := some ⟨.ok, 0#32, 0#32, 0#32, 0#32, none⟩ }

/-- A byte read of a built-in register answers the lane of its word: bits [7:0] at the even address, [15:8] at the odd one
(44_register_surface R371). -/
def Obligations.RegisterByteReadIsALane : Prop :=
  ∀ s e : State, s.Inv → s.AddressesBuiltin →
    e = { s with ops := { s.ops with a := BitVec.ofNat 32 (s.ops.a.toNat - s.ops.a.toNat % 2) } } → ∃ v : Word,
    exec (.route .read .word) e = .next { e with answer := some ⟨.ok, v.setWidth 32, 0#32, 0#32, 0#32, none⟩ } ∧
    exec (.route .read .byte) s = .next { s with answer := some ⟨.ok,
      (if s.ops.a.getLsbD 0 = true then v.extractLsb' 8 8 else v.extractLsb' 0 8).setWidth 32,
      0#32, 0#32, 0#32, none⟩ }

/-- A byte write of a built-in register is the word write of the register's value with the addressed lane replaced
(44_register_surface R372). -/
def Obligations.RegisterByteWriteMerges : Prop :=
  ∀ s e : State, s.Inv → s.AddressesBuiltin →
    e = { s with ops := { s.ops with a := BitVec.ofNat 32 (s.ops.a.toNat - s.ops.a.toNat % 2) } } →
    ∃ (v merged : Word) (t : State),
    exec (.route .read .word) e = .next { e with answer := some ⟨.ok, v.setWidth 32, 0#32, 0#32, 0#32, none⟩ } ∧
    (if s.ops.a.getLsbD 0 = true then
        merged.extractLsb' 8 8 = s.ops.b.extractLsb' 0 8 ∧ merged.extractLsb' 0 8 = v.extractLsb' 0 8
      else merged.extractLsb' 0 8 = s.ops.b.extractLsb' 0 8 ∧ merged.extractLsb' 8 8 = v.extractLsb' 8 8) ∧
    exec (.route .write .word) { e with ops := { e.ops with b := merged.setWidth 32 } } = .next t ∧
    exec (.route .write .byte) s = .next { t with ops := s.ops }

/-! ## The TrapUnit -/

/-- TRAP_POST sets one trap bit and nothing else; slot 15 is refused (41_trapunit R240). -/
def Obligations.TrapPostSetsOneBit : Prop :=
  ∀ (s : State) (k : BitVec 4),
    (k ≠ 15#4 → ∃ t : State, exec (.trapPost k) s = .next t ∧
      (∀ j < 16, t.trapmask.getLsbD j = (s.trapmask.getLsbD j || decide (j = k.toNat))) ∧
      t = { s with trapmask := t.trapmask, answer := some ⟨.ok, 0#32, 0#32, 0#32, 0#32, none⟩ }) ∧
    exec (.trapPost 15#4) s = .next { s with
      refused := true, answer := some ⟨.refused, 0#32, 0#32, 0#32, 0#32, some .slot15NotPostable⟩ }

/-- TRAP_HIGHEST answers the least set slot, or NONE for an empty mask, and writes no state (41_trapunit R242, R243). -/
def Obligations.TrapHighestIsTheLeastSetSlot : Prop :=
  ∀ s : State,
    (s.trapmask = 0#16 →
      exec .trapHighest s = .next { s with answer := some ⟨.none, 0#32, 0#32, 0#32, 0#32, none⟩ }) ∧
    (∀ k < 16, s.trapmask.getLsbD k = true → (∀ j < k, s.trapmask.getLsbD j = false) →
      exec .trapHighest s = .next { s with answer := some ⟨.ok, BitVec.ofNat 32 k, 0#32, 0#32, 0#32, none⟩ })

/-- DISPATCH with nothing pending answers NONE with its operands and changes no state (41_trapunit R253). With only a
stale slot 15, no request being above the PSW's priority, it makes no access, clears bit 15, sets the shadow priority to the
PSW's, and answers NONE with its operands (41_trapunit R254). -/
def Obligations.DispatchWithNothingToService : Prop :=
  ∀ (s : State) (idle : Answer), idle = ⟨.none, (s.ops.a.setWidth 16).setWidth 32,
      (s.ops.b.setWidth 16).setWidth 32, (s.ops.c.setWidth 16).setWidth 32, 0#32, none⟩ →
    (s.trapmask = 0#16 → exec .dispatch s = .next { s with answer := some idle }) ∧
    (s.trapmask = 0x8000#16 → ¬ s.requestAbove (s.ops.b.extractLsb' 5 3) →
      exec .dispatch s = .next { s with
        trapmask := 0#16, iplShadow := s.ops.b.extractLsb' 5 3, answer := some idle })

/-- DISPATCH of a trap slot: the least pending slot `k` below 15 is entered through its fixed vector; its bit is cleared
unless it persists (41_trapunit R247, R248, R250, R251), for every vector and stack whose four words are in memory. -/
def Obligations.DispatchEntersTheHighestTrap : Prop :=
  ∀ (s : State) (k : Fin 15) (V : Word) (v1 v2 p1 p2 : Nat), s.cfg.WF →
    s.trapmask.getLsbD k.val = true → (∀ j < k.val, s.trapmask.getLsbD j = false) →
    V = s.cfg.trapTable[k].vector → s.EntryWords V (s.ops.c.setWidth 16) v1 v2 p1 p2 →
    ∃ c t : State, exec .dispatch s = .next t ∧ c = { s with trapmask := c.trapmask } ∧
      (∀ j < 16, c.trapmask.getLsbD j =
        (s.trapmask.getLsbD j && !(decide (j = k.val) && decide (k ∉ s.cfg.persistSet)))) ∧
      EntersTrap c t V (s.ops.a.setWidth 16) (s.ops.b.setWidth 16) (s.ops.c.setWidth 16) v1 v2 p1 p2

/-- DISPATCH of a device interrupt: with slot 15 alone pending, the lowest slot `k` of the highest level `l` above the
PSW's priority is acknowledged and entered through its vector (41_trapunit R246, R250; 42_interrupts R286, R291). -/
def Obligations.DispatchEntersTheDeviceInterrupt : Prop :=
  ∀ (s : State) (l : Level) (k : Fin 32) (v1 v2 p1 p2 : Nat), s.cfg.WF →
    s.trapmask = 0x8000#16 → s.ops.b.extractLsb' 5 3 < l → (∀ l', l < l' → s.pendAt l' = 0#32) →
    (s.pendAt l).getLsbD k.val = true → (∀ j < k.val, (s.pendAt l).getLsbD j = false) →
    s.EntryWords (s.vecAt l k.val) (s.ops.c.setWidth 16) v1 v2 p1 p2 →
    ∃ c t : State, exec .dispatch s = .next t ∧ c = { s with pend := c.pend } ∧
      (∀ (l' : Level), ∀ j < 32, (c.pendAt l').getLsbD j =
        ((s.pendAt l').getLsbD j && !(decide (l' = l) && decide (j = k.val)))) ∧
      EntersTrap c t (s.vecAt l k.val) (s.ops.a.setWidth 16) (s.ops.b.setWidth 16) (s.ops.c.setWidth 16) v1 v2 p1 p2

/-- DISPATCH of a software interrupt: with slot 15 alone pending and no device request above the PSW's priority, the
highest PIRQ level above it is entered through SWI_VEC, and its PIRQ bit stays set (41_trapunit R250; 42_interrupts R287,
R292). -/
def Obligations.DispatchEntersTheSoftwareInterrupt : Prop :=
  ∀ (s : State) (j : Fin 7) (l : Level) (v1 v2 p1 p2 : Nat), s.cfg.WF →
    s.trapmask = 0x8000#16 → l.toNat = j.val + 1 → s.ops.b.extractLsb' 5 3 < l →
    (∀ l', s.ops.b.extractLsb' 5 3 < l' → s.pendAt l' = 0#32) →
    s.pirq.getLsbD j.val = true → (∀ i : Fin 7, j < i → s.pirq.getLsbD i.val = false) →
    s.EntryWords s.cfg.swiVec[j] (s.ops.c.setWidth 16) v1 v2 p1 p2 →
    ∃ t : State, exec .dispatch s = .next t ∧ t.pirq = s.pirq ∧
      EntersTrap s t s.cfg.swiVec[j] (s.ops.a.setWidth 16) (s.ops.b.setWidth 16) (s.ops.c.setWidth 16) v1 v2 p1 p2

/-- DISPATCH ends in OK, NONE, DOUBLE_FAULT or REFUSED, and DOUBLE_FAULT is exactly when it stops the block; an OK answer
gives a PSW of kernel mode with the old mode as the previous one, at whose priority bit 15 is fresh
(41_trapunit R251, R252, R255; 60_exceptions R415, R419). -/
def Obligations.DispatchOutcomes : Prop :=
  ∀ s : State, s.stopped = false → ∃ (t : State) (a : Answer), exec .dispatch s = .next t ∧ t.answer = some a ∧
    (a.status = .ok ∨ a.status = .none ∨ a.status = .doubleFault ∨ a.status = .refused) ∧
    (t.stopped = true ↔ a.status = .doubleFault) ∧
    (a.status = .ok → a.q1.extractLsb' 14 2 = 0#2 ∧ a.q1.extractLsb' 12 2 = s.ops.b.extractLsb' 14 2 ∧
      t.iplShadow = a.q1.extractLsb' 5 3 ∧ (t.trapmask.getLsbD 15 = true ↔ t.requestAbove t.iplShadow))

/-- A translation fault on the vector read stops the block with DOUBLE_FAULT: with translation enabled and the kernel
D page of the vector not resident, the fault is latched with DISPATCH's PC operand and no memory is written
(41_trapunit R252, 60_exceptions R414); that the stop is a next state marked stopped is the model's (log 13). -/
def Obligations.DispatchStopsOnAFaultingVector : Prop :=
  ∀ (s : State) (k : Fin 15) (slot : BitVec 6),
    s.trapmask.getLsbD k.val = true → (∀ j < k.val, s.trapmask.getLsbD j = false) → s.enable = true →
    (s.cfg.trapTable[k].vector).getLsbD 0 = false → IsSlot slot .kernel .data s.cfg.trapTable[k].vector →
    (s.descAt slot).r = false →
    ∃ t : State, exec .dispatch s = .next t ∧
      t.fr = (if s.fr.reason = .none then ⟨.nonResident, slot, s.ops.a.setWidth 16⟩ else s.fr) ∧
      t = { s with
        fr := t.fr, trapmask := t.trapmask, stopped := true
        answer := some ⟨.doubleFault, 0#32, 0#32, 0#32, 0#32, none⟩ }

/-! ## The InterruptFabric -/

/-- INT_REQUEST by the owner sets the slot's pending bit and re-evaluates at the shadow priority; any other is refused
(42_interrupts R280, R281), and so is one that names BLOCK (30_encoding R127, log 18). -/
def Obligations.IntRequestSetsTheOwnersBit : Prop :=
  ∀ (s : State) (l : Level) (k : BitVec 5),
    (4 ≤ l.toNat ∧ k.toNat < s.cfg.nslots ∧ s.ops.a ≠ 0xFFFFFFFF#32 ∧ s.ownerAt l k.toNat = some s.ops.a →
      ∃ t : State, exec (.intRequest l k) s = .next t ∧
        (∀ (l' : Level), ∀ j < 32, (t.pendAt l').getLsbD j =
          ((s.pendAt l').getLsbD j || (decide (l' = l) && decide (j = k.toNat)))) ∧
        (t.trapmask.getLsbD 15 = true ↔ t.requestAbove s.iplShadow) ∧
        (∀ j < 15, t.trapmask.getLsbD j = s.trapmask.getLsbD j) ∧
        t = { s with
          pend := t.pend, trapmask := t.trapmask, answer := some ⟨.ok, 0#32, 0#32, 0#32, 0#32, none⟩ }) ∧
    (¬ (4 ≤ l.toNat ∧ k.toNat < s.cfg.nslots ∧ s.ops.a ≠ 0xFFFFFFFF#32 ∧ s.ownerAt l k.toNat = some s.ops.a) →
      exec (.intRequest l k) s = .next { s with
        refused := true, answer := some ⟨.refused, 0#32, 0#32, 0#32, 0#32, some .unownedSlot⟩ })

/-- INT_CANCEL by the owner clears the slot's pending bit and re-evaluates at the shadow priority; any other is refused
(42_interrupts R281, R282), and so is one that names BLOCK (30_encoding R127, log 18). -/
def Obligations.IntCancelClearsTheOwnersBit : Prop :=
  ∀ (s : State) (l : Level) (k : BitVec 5),
    (4 ≤ l.toNat ∧ k.toNat < s.cfg.nslots ∧ s.ops.a ≠ 0xFFFFFFFF#32 ∧ s.ownerAt l k.toNat = some s.ops.a →
      ∃ t : State, exec (.intCancel l k) s = .next t ∧
        (∀ (l' : Level), ∀ j < 32, (t.pendAt l').getLsbD j =
          ((s.pendAt l').getLsbD j && !(decide (l' = l) && decide (j = k.toNat)))) ∧
        (t.trapmask.getLsbD 15 = true ↔ t.requestAbove s.iplShadow) ∧
        (∀ j < 15, t.trapmask.getLsbD j = s.trapmask.getLsbD j) ∧
        t = { s with
          pend := t.pend, trapmask := t.trapmask, answer := some ⟨.ok, 0#32, 0#32, 0#32, 0#32, none⟩ }) ∧
    (¬ (4 ≤ l.toNat ∧ k.toNat < s.cfg.nslots ∧ s.ops.a ≠ 0xFFFFFFFF#32 ∧ s.ownerAt l k.toNat = some s.ops.a) →
      exec (.intCancel l k) s = .next { s with
        refused := true, answer := some ⟨.refused, 0#32, 0#32, 0#32, 0#32, some .unownedSlot⟩ })

/-- INT_REEVALUATE stores the priority and makes bit 15 the aggregate condition, which it answers
(42_interrupts R284, R285). -/
def Obligations.IntReevaluateStoresThePriority : Prop :=
  ∀ (s : State) (p : Level), ∃ t : State, exec (.intReevaluate p) s = .next t ∧ t.iplShadow = p ∧
    (t.trapmask.getLsbD 15 = true ↔ s.requestAbove p) ∧
    (∀ j < 15, t.trapmask.getLsbD j = s.trapmask.getLsbD j) ∧
    t = { s with
      iplShadow := p, trapmask := t.trapmask
      answer := some ⟨.ok, if t.trapmask.getLsbD 15 = true then 1#32 else 0#32, 0#32, 0#32, 0#32, none⟩ }

/-- INT_ACK takes the lowest pending slot of the highest level above its IPL, whatever software requests stand, clears its
bit and re-evaluates at the shadow priority (42_interrupts R286, R288, R290, R291). -/
def Obligations.IntAckTakesTheDeviceRequest : Prop :=
  ∀ (s : State) (p l : Level) (k : Fin 32), p < l → (∀ l', l < l' → s.pendAt l' = 0#32) →
    (s.pendAt l).getLsbD k.val = true → (∀ j < k.val, (s.pendAt l).getLsbD j = false) →
    ∃ t : State, exec (.intAck p) s = .next t ∧
      (∀ (l' : Level), ∀ j < 32, (t.pendAt l').getLsbD j =
        ((s.pendAt l').getLsbD j && !(decide (l' = l) && decide (j = k.val)))) ∧
      (t.trapmask.getLsbD 15 = true ↔ t.requestAbove s.iplShadow) ∧
      (∀ j < 15, t.trapmask.getLsbD j = s.trapmask.getLsbD j) ∧
      t = { s with
        pend := t.pend, trapmask := t.trapmask
        answer := some ⟨.ok, (s.vecAt l k.val).setWidth 32, l.setWidth 32, BitVec.ofNat 32 k.val, 0#32, none⟩ }

/-- With no device request above its IPL, INT_ACK answers SWI_VEC of the highest PIRQ level above it and leaves the PIRQ
bits, or answers NONE when there is none; either way bit 15 is re-evaluated at the shadow priority
(42_interrupts R286 to R288, R292). -/
def Obligations.IntAckTakesTheSoftwareRequest : Prop :=
  ∀ (s : State) (p : Level), (∀ l', p < l' → s.pendAt l' = 0#32) →
    ∃ t : State, exec (.intAck p) s = .next t ∧
      (t.trapmask.getLsbD 15 = true ↔ s.requestAbove s.iplShadow) ∧
      (∀ j < 15, t.trapmask.getLsbD j = s.trapmask.getLsbD j) ∧
      t = { s with trapmask := t.trapmask, answer := t.answer } ∧
      (∀ (j : Fin 7) (l : Level), l.toNat = j.val + 1 → p < l → s.pirq.getLsbD j.val = true →
        (∀ i : Fin 7, j < i → s.pirq.getLsbD i.val = false) →
        t.answer = some ⟨.ok, s.cfg.swiVec[j].setWidth 32, l.setWidth 32, 0xFFFFFFFF#32, 0#32, none⟩) ∧
      ((∀ (j : Fin 7) (l : Level), l.toNat = j.val + 1 → p < l → s.pirq.getLsbD j.val = false) →
        t.answer = some ⟨.none, 0#32, 0#32, 0#32, 0#32, none⟩)

/-- Level masking: INT_ACK never acknowledges a level at or below its IPL, and INT_REEVALUATE at a priority asserts bit 15
only for a request above it (42_interrupts R289). -/
def Obligations.RequestsAtOrBelowThePriorityAreMasked : Prop :=
  ∀ (s t : State) (p : Level) (a : Answer),
    (exec (.intAck p) s = .next t → t.answer = some a → a.status = .ok → p.toNat < a.q1.toNat) ∧
    (exec (.intReevaluate p) s = .next t →
      (∀ l : Level, p < l → s.pendAt l = 0#32 ∧ s.pirqAt l = false) → t.trapmask.getLsbD 15 = false)

/-! ## The BusRouter and ACCESS -/

/-- ROUTE reads memory little-endian and changes nothing (43_bus R320, R321; 20_memory R81). -/
def Obligations.RouteReadsMemory : Prop :=
  ∀ (s : State) (pa : Nat), s.cfg.WF → s.ops.a.toNat = pa → pa < s.cfg.memSize →
    exec (.route .read .byte) s = .next { s with
      answer := some ⟨.ok, (s.mem.read pa).setWidth 32, 0#32, 0#32, 0#32, none⟩ } ∧
    (pa % 2 = 0 → exec (.route .read .word) s = .next { s with
      answer := some ⟨.ok, (s.mem.read (pa + 1) ++ s.mem.read pa : Word).setWidth 32, 0#32, 0#32, 0#32, none⟩ })

/-- ROUTE writes one byte, or the two bytes of a word little-endian, and no other byte and no other state
(43_bus R320, R321; 20_memory R81). -/
def Obligations.RouteWritesMemory : Prop :=
  ∀ (s : State) (pa : Nat), s.cfg.WF → s.ops.a.toNat = pa → pa < s.cfg.memSize →
    (∃ t : State, exec (.route .write .byte) s = .next t ∧
      (∀ a, t.mem.read a = if a = pa then s.ops.b.extractLsb' 0 8 else s.mem.read a) ∧
      t = { s with mem := t.mem, answer := some ⟨.ok, 0#32, 0#32, 0#32, 0#32, none⟩ }) ∧
    (pa % 2 = 0 → ∃ t : State, exec (.route .write .word) s = .next t ∧
      (∀ a, t.mem.read a = storedByte (s.ops.b.setWidth 16) pa a (s.mem.read a)) ∧
      t = { s with mem := t.mem, answer := some ⟨.ok, 0#32, 0#32, 0#32, 0#32, none⟩ })

/-- ROUTE to an address between memory and the I/O page, or of the I/O page in no window, ends with NXM and changes no
state (43_bus R323, 20_memory R89). -/
def Obligations.RouteToNothingIsNxm : Prop :=
  ∀ (s : State) (k : Kind) (x : Width) (pa : Nat), s.ops.a.toNat = pa → pa < 2 ^ s.cfg.paw.bits →
    (x = .word → pa % 2 = 0) → s.cfg.memSize ≤ pa →
    (pa < 2 ^ s.cfg.paw.bits - 8192 ∨ ∀ w ∈ s.windows, ¬ (w.base ≤ pa ∧ pa < w.limit)) →
    exec (.route k x) s = .next { s with answer := some ⟨.nxm, 0#32, 0#32, 0#32, 0#32, none⟩ }

/-- ROUTE refuses an address at or above `2^PAW` (30_encoding R127); a word access at an odd address is refused under
REFUSE, and under ALIGN_DOWN does what it does at the address below (20_memory R84). -/
def Obligations.RouteRefusesOrAlignsOddWords : Prop :=
  ∀ (s : State) (k : Kind),
    (∀ x, 2 ^ s.cfg.paw.bits ≤ s.ops.a.toNat → exec (.route k x) s = .next { s with
      refused := true, answer := some ⟨.refused, 0#32, 0#32, 0#32, 0#32, some .badAddress⟩ }) ∧
    (s.ops.a.toNat < 2 ^ s.cfg.paw.bits → s.ops.a.getLsbD 0 = true → s.cfg.oddWordPolicy = .refuse →
      exec (.route k .word) s = .next { s with
        refused := true, answer := some ⟨.refused, 0#32, 0#32, 0#32, 0#32, some .oddWord⟩ }) ∧
    (s.ops.a.toNat < 2 ^ s.cfg.paw.bits → s.ops.a.getLsbD 0 = true → s.cfg.oddWordPolicy = .alignDown →
      ∃ t : State, exec (.route k .word) { s with ops := { s.ops with a := s.ops.a - 1#32 } } = .next t ∧
        exec (.route k .word) s = .next { t with ops := s.ops })

/-- ROUTE to a device's window forwards the offset from the window's base to the device's handler and answers what the
handler answers, or NXM for `Reject`; for every answer the handler may give (43_bus R322, 00_scope R16; the record of the
call and the count of calls are the model's, log 8, log 9). -/
def Obligations.RouteForwardsToTheDevice : Prop :=
  ∀ (s : State) (x : Width) (w : Window), s.Inv → w ∈ s.windows → w.dev ≠ 0xFFFFFFFF#32 →
    2 ^ s.cfg.paw.bits - 8192 ≤ s.ops.a.toNat → w.base ≤ s.ops.a.toNat → s.ops.a.toNat < w.limit →
    (x = .word → s.ops.a.getLsbD 0 = false) →
    exec (.route .read x) s = .next { s with
      devCalls := s.devCalls ++ [⟨w.dev, .read, s.ops.a.toNat - w.base, x, 0#16⟩]
      draws := s.draws + 1
      answer := match Config.devRead s.draws w.dev (s.ops.a.toNat - w.base) x, x with
        | some v, .word => some ⟨.ok, v.setWidth 32, 0#32, 0#32, 0#32, none⟩
        | some v, .byte => some ⟨.ok, (v.extractLsb' 0 8).setWidth 32, 0#32, 0#32, 0#32, none⟩
        | none, _ => some ⟨.nxm, 0#32, 0#32, 0#32, 0#32, none⟩ } ∧
    ∃ d : Word, (x = .word → d = s.ops.b.setWidth 16) ∧ (x = .byte → d = (s.ops.b.extractLsb' 0 8).setWidth 16) ∧
      exec (.route .write x) s = .next { s with
        devCalls := s.devCalls ++ [⟨w.dev, .write, s.ops.a.toNat - w.base, x, d⟩]
        draws := s.draws + 1
        answer := if Config.devWrite s.draws w.dev (s.ops.a.toNat - w.base) x d = true then
            some ⟨.ok, 0#32, 0#32, 0#32, 0#32, none⟩
          else some ⟨.nxm, 0#32, 0#32, 0#32, 0#32, none⟩ }

/-- ACCESS reads the memory byte or word that its virtual address maps to, and answers it with the physical address; no
state changes (43_bus R326, 40_pagetable R200). -/
def Obligations.AccessReadsMappedMemory : Prop :=
  ∀ (s : State) (m : Mode) (sp : Space) (slot : BitVec 6) (pa : Nat), s.cfg.WF →
    IsSlot slot m sp (s.ops.a.setWidth 16) → s.Maps slot .read (s.ops.a.setWidth 16) pa → pa < s.cfg.memSize →
    exec (.access m sp .read .byte) s = .next { s with
      answer := some ⟨.ok, (s.mem.read pa).setWidth 32, BitVec.ofNat 32 pa, 0#32, 0#32, none⟩ } ∧
    (s.ops.a.getLsbD 0 = false → exec (.access m sp .read .word) s = .next { s with
      answer := some ⟨.ok, (s.mem.read (pa + 1) ++ s.mem.read pa : Word).setWidth 32, BitVec.ofNat 32 pa, 0#32, 0#32,
        none⟩ })

/-- ACCESS writes the memory byte or word that its virtual address maps to and, with translation enabled, sets the W bit
of its descriptor; no other byte and no other state changes (43_bus R326, 40_pagetable R206, 20_memory R81). -/
def Obligations.AccessWritesMappedMemory : Prop :=
  ∀ (s : State) (m : Mode) (sp : Space) (slot : BitVec 6) (pa : Nat), s.cfg.WF →
    IsSlot slot m sp (s.ops.a.setWidth 16) → s.Maps slot .write (s.ops.a.setWidth 16) pa → pa < s.cfg.memSize →
    (∃ t : State, exec (.access m sp .write .byte) s = .next t ∧
      (∀ a, t.mem.read a = if a = pa then s.ops.b.extractLsb' 0 8 else s.mem.read a) ∧
      t = { s with
        desc := s.written slot, mem := t.mem
        answer := some ⟨.ok, 0#32, BitVec.ofNat 32 pa, 0#32, 0#32, none⟩ }) ∧
    (s.ops.a.getLsbD 0 = false → ∃ t : State, exec (.access m sp .write .word) s = .next t ∧
      (∀ a, t.mem.read a = storedByte (s.ops.b.setWidth 16) pa a (s.mem.read a)) ∧
      t = { s with
        desc := s.written slot, mem := t.mem
        answer := some ⟨.ok, 0#32, BitVec.ofNat 32 pa, 0#32, 0#32, none⟩ })

/-- ACCESS with a translation fault does what TRANSLATE does and posts one trap slot: ODD for ODDADDRESS, MME for the
others; nothing is routed (43_bus R326, R327; 41_trapunit R241). -/
def Obligations.AccessFaultPostsItsTrap : Prop :=
  ∀ (s t : State) (m : Mode) (sp : Space) (k : Kind) (x : Width) (a : Answer) (odd mme : Fin 15), s.cfg.WF →
    IsTrapSlot s.cfg .odd odd → IsTrapSlot s.cfg .mme mme →
    exec (.translate m sp k x) { s with ops := { s.ops with b := s.ops.c } } = .next t → t.answer = some a →
    a.status ≠ .ok →
    ∃ u : State, exec (.access m sp k x) s = .next u ∧
      (∀ j < 16, u.trapmask.getLsbD j = (s.trapmask.getLsbD j ||
        decide (j = if a.status = .oddAddress then odd.val else mme.val))) ∧
      u = { s with fr := t.fr, trapmask := u.trapmask, answer := some a }

/-- ACCESS of a mapped address routes its physical address exactly as ROUTE does, in the state TRANSLATE leaves: the
answer is ROUTE's with the physical address in Q1; NXM posts the NXM slot (43_bus R326, R327; 41_trapunit R241). -/
def Obligations.AccessRoutesTheTranslatedAddress : Prop :=
  ∀ (s t u : State) (m : Mode) (sp : Space) (k : Kind) (x : Width) (a r : Answer) (nxm : Fin 15), s.cfg.WF →
    IsTrapSlot s.cfg .nxm nxm →
    exec (.translate m sp k x) { s with ops := { s.ops with b := s.ops.c } } = .next t → t.answer = some a →
    a.status = .ok →
    exec (.route k x) { t with ops := { s.ops with a := a.q0 } } = .next u → u.answer = some r →
    (r.status = .ok → exec (.access m sp k x) s = .next { u with
      ops := s.ops, answer := some ⟨.ok, r.q0, a.q0, 0#32, 0#32, none⟩ }) ∧
    (r.status = .nxm → ∃ v : State, exec (.access m sp k x) s = .next v ∧
      (∀ j < 16, v.trapmask.getLsbD j = (u.trapmask.getLsbD j || decide (j = nxm.val))) ∧
      v = { u with ops := s.ops, trapmask := v.trapmask, answer := some r })

/-! ## The DeviceRegistry and RESET -/

/-- DEV_REGISTER with a free window and, for COUNT > 0, a lowest run of free slots: it appends the window and gives the
slots, with vectors 4 bytes apart, to the device; nothing else changes (43_bus R330, R332). -/
def Obligations.DevRegisterAssignsTheLowestRun : Prop :=
  ∀ (s : State) (l : Level) (n : BitVec 6) (k : Nat), s.cfg.WF → s.ops.c ≠ 0xFFFFFFFF#32 →
    s.ops.a.toNat < s.ops.b.toNat → s.ops.b.toNat ≤ 2 ^ s.cfg.paw.bits → n.toNat ≤ s.cfg.nslots →
    (∀ w ∈ s.windows, s.ops.b.toNat ≤ w.base ∨ w.limit ≤ s.ops.a.toNat) →
    (n = 0#6 → k = 0) →
    (n ≠ 0#6 → 4 ≤ l.toNat ∧ k + n.toNat ≤ s.cfg.nslots ∧ (∀ i < n.toNat, s.ownerAt l (k + i) = none) ∧
      ∀ j < k, ∃ i < n.toNat, s.ownerAt l (j + i) ≠ none) →
    ∃ t : State, exec (.devRegister l n) s = .next t ∧
      t.windows = s.windows ++ [⟨s.ops.a.toNat, s.ops.b.toNat, s.ops.c⟩] ∧
      (∀ (l' : Level), ∀ j < 32, t.ownerAt l' j =
        if l' = l ∧ k ≤ j ∧ j < k + n.toNat then some s.ops.c else s.ownerAt l' j) ∧
      (∀ (l' : Level), ∀ j < 32, t.vecAt l' j =
        if l' = l ∧ k ≤ j ∧ j < k + n.toNat then s.ops.d.setWidth 16 + BitVec.ofNat 16 (4 * (j - k))
        else s.vecAt l' j) ∧
      t = { s with
        windows := t.windows, owner := t.owner, vec := t.vec
        answer := some ⟨.ok, BitVec.ofNat 32 k, 0#32, 0#32, 0#32, none⟩ }

/-- A rejected DEV_REGISTER changes neither the windows nor any slot: OVERLAP for a window that overlaps another, before
SLOTS_EXHAUSTED for a level with no run of free slots, both setting `S.config_error`; a violated field constraint is
refused (43_bus R330, R331, R333; 30_encoding R127). That a refusal is a next state (log 12) and the reason its answer carries
(log 11) are the model's. -/
def Obligations.DevRegisterFailsClosed : Prop :=
  ∀ (s : State) (l : Level) (n : BitVec 6),
    (s.ops.c = 0xFFFFFFFF#32 ∨ s.ops.b.toNat ≤ s.ops.a.toNat ∨ 2 ^ s.cfg.paw.bits < s.ops.b.toNat ∨
        s.cfg.nslots < n.toNat →
      exec (.devRegister l n) s = .next { s with
        refused := true, answer := some ⟨.refused, 0#32, 0#32, 0#32, 0#32, some .badRegistration⟩ }) ∧
    (s.ops.c ≠ 0xFFFFFFFF#32 → s.ops.a.toNat < s.ops.b.toNat → s.ops.b.toNat ≤ 2 ^ s.cfg.paw.bits →
      n.toNat ≤ s.cfg.nslots →
      ((∃ w ∈ s.windows, s.ops.a.toNat < w.limit ∧ w.base < s.ops.b.toNat) →
        exec (.devRegister l n) s = .next { s with
          configError := true, answer := some ⟨.overlap, 0#32, 0#32, 0#32, 0#32, none⟩ }) ∧
      ((∀ w ∈ s.windows, s.ops.b.toNat ≤ w.base ∨ w.limit ≤ s.ops.a.toNat) → n ≠ 0#6 →
        (l.toNat < 4 ∨ ∀ k, k + n.toNat ≤ s.cfg.nslots → ∃ i < n.toNat, s.ownerAt l (k + i) ≠ none) →
        exec (.devRegister l n) s = .next { s with
          configError := true, answer := some ⟨.slotsExhausted, 0#32, 0#32, 0#32, 0#32, none⟩ }))

/-- DEV_UNREGISTER removes every window and slot of a device, drops its pending requests and re-evaluates at the shadow
priority; BLOCK is refused (43_bus R334, R336). -/
def Obligations.DevUnregisterRemovesTheDevice : Prop :=
  ∀ s : State, s.cfg.WF →
    (s.ops.a ≠ 0xFFFFFFFF#32 → ∃ t : State, exec .devUnregister s = .next t ∧
      t.windows = s.windows.filter (fun w => decide (w.dev ≠ s.ops.a)) ∧
      (∀ (l : Level), ∀ k < s.cfg.nslots, s.ownerAt l k = some s.ops.a →
        t.ownerAt l k = none ∧ t.vecAt l k = 0#16 ∧ (t.pendAt l).getLsbD k = false) ∧
      (∀ (l : Level), ∀ k < 32, ¬ (k < s.cfg.nslots ∧ s.ownerAt l k = some s.ops.a) →
        t.ownerAt l k = s.ownerAt l k ∧ t.vecAt l k = s.vecAt l k ∧
        (t.pendAt l).getLsbD k = (s.pendAt l).getLsbD k) ∧
      (t.trapmask.getLsbD 15 = true ↔ t.requestAbove s.iplShadow) ∧
      (∀ j < 15, t.trapmask.getLsbD j = s.trapmask.getLsbD j) ∧
      t = { s with
        windows := t.windows, owner := t.owner, vec := t.vec, pend := t.pend, trapmask := t.trapmask
        answer := some ⟨.ok, 0#32, 0#32, 0#32, 0#32, none⟩ }) ∧
    (s.ops.a = 0xFFFFFFFF#32 → exec .devUnregister s = .next { s with
      refused := true, answer := some ⟨.refused, 0#32, 0#32, 0#32, 0#32, some .builtinWindow⟩ })

/-- RESET clears every hardware field to its reset value and keeps the registry, memory and the model marks
(70_reset R450). -/
def Obligations.ResetClearsHardwareKeepsRegistry : Prop :=
  ∀ s : State, exec .reset s = .next { s with
    desc := Vector.replicate 64 ⟨0#16, 0#7, false, false, false, false⟩
    enable := false, ext := false, fr := ⟨.none, 0#6, 0#16⟩, trapmask := 0#16
    pend := Vector.replicate 8 0#32, pirq := 0#7, iplShadow := 7#3
    answer := some ⟨.ok, 0#32, 0#32, 0#32, 0#32, none⟩ }

/-- The constructed state: every hardware field at its reset value, every slot FREE with vector 0, the seven built-in
windows, every mark false; and no contents of memory is shut out, each being that of some draw (70_reset R451, 10_state R46,
R56, 00_scope R6 to R15). The machine after reset is the one built with the default parameters, which is the model's (log 6),
and a draw that nothing constrains (log 7). -/
def Obligations.ConstructionGivesResetValues : Prop :=
  State.reset = State.construct Config.default Config.powerOnDraw ∧ Config.default.WF ∧ Config.legacy.WF ∧
  (∀ (c : Config) (contents : Nat → Byte), ∃ draw, ∀ a < c.memSize,
    (State.construct c draw).mem.read a = contents a) ∧
  ∀ (c : Config) (draw : List Host.Cell),
    let s := State.construct c draw
    let b := 2 ^ c.paw.bits - 8192
    s.cfg = c ∧ (∀ slot, s.descAt slot = ⟨0#16, 0#7, false, false, false, false⟩) ∧ s.enable = false ∧ s.ext = false ∧
    s.fr = ⟨.none, 0#6, 0#16⟩ ∧ s.trapmask = 0#16 ∧ (∀ l, s.pendAt l = 0#32) ∧
    (∀ l k, s.ownerAt l k = none ∧ s.vecAt l k = 0#16) ∧ s.pirq = 0#7 ∧ s.iplShadow = 7#3 ∧
    s.windows = [⟨b + 0o12200, b + 0o12400, 0xFFFFFFFF#32⟩, ⟨b + 0o12516, b + 0o12520, 0xFFFFFFFF#32⟩,
      ⟨b + 0o17572, b + 0o17574, 0xFFFFFFFF#32⟩, ⟨b + 0o17576, b + 0o17600, 0xFFFFFFFF#32⟩,
      ⟨b + 0o17600, b + 0o17700, 0xFFFFFFFF#32⟩, ⟨b + 0o17756, b + 0o17760, 0xFFFFFFFF#32⟩,
      ⟨b + 0o17772, b + 0o17774, 0xFFFFFFFF#32⟩] ∧
    s.refused = false ∧ s.stopped = false ∧ s.configError = false

/-! ## Rules of the whole block -/

/-- The registry is stable: no command but DEV_REGISTER and DEV_UNREGISTER changes a window, an owner or a vector
(43_bus R335, 70_reset R452). -/
def Obligations.RegistryChangesOnlyByRegistration : Prop :=
  ∀ (i : Instr) (s t : State), exec i s = .next t → (∀ l n, i ≠ .devRegister l n) → i ≠ .devUnregister →
    t.windows = s.windows ∧ t.owner = s.owner ∧ t.vec = s.vec

/-- Who writes what: `S.ipl_shadow` changes only by INT_REEVALUATE, DISPATCH and RESET (10_state R44), `S.enable` and
`S.ext` only by a write access, DISPATCH and RESET (10_state R37, R38), memory only by a write access and DISPATCH. -/
def Obligations.StateIsWrittenOnlyByItsCommands : Prop :=
  ∀ (i : Instr) (s t : State), exec i s = .next t → i ≠ .dispatch →
    (i ≠ .reset → (∀ p, i ≠ .intReevaluate p) → t.iplShadow = s.iplShadow) ∧
    ((∀ x, i ≠ .route .write x) → (∀ m sp x, i ≠ .access m sp .write x) →
      t.mem = s.mem ∧ (i ≠ .reset → t.enable = s.enable ∧ t.ext = s.ext ∧ t.pirq = s.pirq))

/-- The marks `S.refused` and `S.config_error` are no hardware state: two states that differ in them alone are answered
alike and go on differing in them alone, command by command (10_state R47). -/
def Obligations.MarksDoNotInfluenceTheBlock : Prop :=
  ∀ (s s' t : State), s.eraseMarks = s'.eraseMarks → step s = .next t →
    ∃ t' : State, step s' = .next t' ∧ t.eraseMarks = t'.eraseMarks

/-- Every step keeps the invariant (10_state R38, R41, R42, R45, R53, R56; 42_interrupts R294; memory's form). -/
def Obligations.EveryStepKeepsTheInvariant : Prop :=
  ∀ s t : State, s.Inv → step s = .next t → t.Inv

/-- The invariant holds of every block as it is built, with any parameters the spec admits and any power-on memory
(70_reset R451, 10_state R46). -/
def Obligations.InvariantHoldsAtConstruction : Prop :=
  ∀ (c : Config) (draw : List Host.Cell), c.WF → (State.construct c draw).Inv
end

