-- ==== Sys2Proof/Laws/Bits.lean ====
section
/-! SUPPORT. Single bits of masks: setting, clearing, the least set bit, bit 15 of the trap mask. -/

namespace Sys2Proof.Machine

@[simp] theorem getLsbD_setBit {w : Nat} (m : BitVec w) (k j : Nat) :
    (setBit m k).getLsbD j = (m.getLsbD j || (decide (j < w) && decide (j = k))) := by
  simp only [setBit, BitVec.getLsbD_or, BitVec.getLsbD_twoPow]
  by_cases h : j = k <;> by_cases hw : j < w <;> simp_all [eq_comm]

@[simp] theorem getLsbD_clearBit {w : Nat} (m : BitVec w) (k j : Nat) :
    (clearBit m k).getLsbD j = (m.getLsbD j && !decide (j = k)) := by
  simp only [clearBit, BitVec.getLsbD_and, BitVec.getLsbD_not, BitVec.getLsbD_twoPow]
  by_cases hw : j < w
  · by_cases h : j = k <;> simp_all [eq_comm]
  · simp [BitVec.getLsbD_of_ge m j (by omega)]

@[simp] theorem getElem_setBit {w : Nat} (m : BitVec w) (k j : Nat) (h : j < w) :
    (setBit m k)[j] = (m[j] || decide (j = k)) := by
  have := getLsbD_setBit m k j
  simpa only [BitVec.getLsbD_eq_getElem h, h, decide_true, Bool.true_and] using this

@[simp] theorem getElem_clearBit {w : Nat} (m : BitVec w) (k j : Nat) (h : j < w) :
    (clearBit m k)[j] = (m[j] && !decide (j = k)) := by
  have := getLsbD_clearBit m k j
  simpa only [BitVec.getLsbD_eq_getElem h] using this

theorem leastSet_eq_some {w : Nat} (m : BitVec w) (k : Nat) :
    leastSet m = some k ↔ k < w ∧ m.getLsbD k = true ∧ ∀ j < k, m.getLsbD j = false := by
  unfold leastSet
  rw [List.find?_range_eq_some]
  constructor
  · rintro ⟨h1, h2, h3⟩
    exact ⟨by simpa using h2, by simpa using h1, fun j hj => by simpa using h3 j hj⟩
  · rintro ⟨h1, h2, h3⟩
    exact ⟨by simpa using h2, by simpa using h1, fun j hj => by simpa using h3 j hj⟩

theorem leastSet_eq_none {w : Nat} (m : BitVec w) : leastSet m = none ↔ m = 0#w := by
  unfold leastSet
  rw [List.find?_eq_none]
  constructor
  · intro h
    ext i hi
    rw [← BitVec.getLsbD_eq_getElem]
    simpa using h i (by simpa using hi)
  · rintro rfl i _
    simp

@[simp] theorem getLsbD_withAggregate (m : BitVec 16) (b : Bool) (j : Nat) :
    (withAggregate m b).getLsbD j = if j = 15 then b else m.getLsbD j := by
  unfold withAggregate
  rw [BitVec.getLsbD_cons]
  split
  · rfl
  · by_cases h : j < 15
    · simp [h]
    · simp [h, BitVec.getLsbD_of_ge m j (by omega)]

@[simp] theorem getElem_withAggregate (m : BitVec 16) (b : Bool) (j : Nat) (h : j < 16) :
    (withAggregate m b)[j] = if j = 15 then b else m[j] := by
  have := getLsbD_withAggregate m b j
  simpa only [BitVec.getLsbD_eq_getElem h] using this

/-- Clearing the persistent slots of a mask, bit by bit (44_register_surface R378). -/
theorem getLsbD_clearPersistent (persist : List (Fin 15)) (v m : BitVec 16) (j : Nat) :
    (clearPersistent persist v m).getLsbD j =
      (m.getLsbD j && !(v.getLsbD j && persist.any (fun k => k.val == j))) := by
  unfold clearPersistent
  induction persist generalizing m with
  | nil => simp
  | cons k rest ih =>
    simp only [List.foldl_cons, List.any_cons]
    rw [ih]
    by_cases hk : k.val = j
    · subst hk
      cases hv : v.getLsbD k.val <;> simp
    · have hb : (k.val == j) = false := by simpa using hk
      have hd : decide (j = k.val) = false := by simp; omega
      by_cases hv : v.getLsbD k.val = true <;> simp [hv, hb, hd]

/-- Bit 15 is no persistent slot. -/
theorem getLsbD_clearPersistent_15 (persist : List (Fin 15)) (v m : BitVec 16) :
    (clearPersistent persist v m).getLsbD 15 = m.getLsbD 15 := by
  rw [getLsbD_clearPersistent]
  have : persist.any (fun k => k.val == 15) = false := by
    rw [List.any_eq_false]
    intro k _
    have := k.isLt
    simp
    omega
  simp [this]

end Sys2Proof.Machine
end

