-- ==== Sys2Proof/Laws/State.lean ====
section
/-! SUPPORT. One lemma per field for each named update of State: what the update leaves there, true by rfl. -/

namespace Sys2Proof.Machine

variable (s : State)

/-! ### setDesc -/

@[simp] theorem State.setDesc_cfg (slot : BitVec 6) (d : Desc) : (s.setDesc slot d).cfg = s.cfg := rfl
@[simp] theorem State.setDesc_desc (slot : BitVec 6) (d : Desc) : (s.setDesc slot d).desc = s.desc.set slot.toNat d slot.isLt := rfl
@[simp] theorem State.setDesc_enable (slot : BitVec 6) (d : Desc) : (s.setDesc slot d).enable = s.enable := rfl
@[simp] theorem State.setDesc_ext (slot : BitVec 6) (d : Desc) : (s.setDesc slot d).ext = s.ext := rfl
@[simp] theorem State.setDesc_fr (slot : BitVec 6) (d : Desc) : (s.setDesc slot d).fr = s.fr := rfl
@[simp] theorem State.setDesc_trapmask (slot : BitVec 6) (d : Desc) : (s.setDesc slot d).trapmask = s.trapmask := rfl
@[simp] theorem State.setDesc_pend (slot : BitVec 6) (d : Desc) : (s.setDesc slot d).pend = s.pend := rfl
@[simp] theorem State.setDesc_owner (slot : BitVec 6) (d : Desc) : (s.setDesc slot d).owner = s.owner := rfl
@[simp] theorem State.setDesc_vec (slot : BitVec 6) (d : Desc) : (s.setDesc slot d).vec = s.vec := rfl
@[simp] theorem State.setDesc_pirq (slot : BitVec 6) (d : Desc) : (s.setDesc slot d).pirq = s.pirq := rfl
@[simp] theorem State.setDesc_iplShadow (slot : BitVec 6) (d : Desc) : (s.setDesc slot d).iplShadow = s.iplShadow := rfl
@[simp] theorem State.setDesc_windows (slot : BitVec 6) (d : Desc) : (s.setDesc slot d).windows = s.windows := rfl
@[simp] theorem State.setDesc_mem (slot : BitVec 6) (d : Desc) : (s.setDesc slot d).mem = s.mem := rfl
@[simp] theorem State.setDesc_refused (slot : BitVec 6) (d : Desc) : (s.setDesc slot d).refused = s.refused := rfl
@[simp] theorem State.setDesc_stopped (slot : BitVec 6) (d : Desc) : (s.setDesc slot d).stopped = s.stopped := rfl
@[simp] theorem State.setDesc_configError (slot : BitVec 6) (d : Desc) : (s.setDesc slot d).configError = s.configError := rfl
@[simp] theorem State.setDesc_commands (slot : BitVec 6) (d : Desc) : (s.setDesc slot d).commands = s.commands := rfl
@[simp] theorem State.setDesc_ops (slot : BitVec 6) (d : Desc) : (s.setDesc slot d).ops = s.ops := rfl
@[simp] theorem State.setDesc_answer (slot : BitVec 6) (d : Desc) : (s.setDesc slot d).answer = s.answer := rfl
@[simp] theorem State.setDesc_devCalls (slot : BitVec 6) (d : Desc) : (s.setDesc slot d).devCalls = s.devCalls := rfl
@[simp] theorem State.setDesc_draws (slot : BitVec 6) (d : Desc) : (s.setDesc slot d).draws = s.draws := rfl

/-! ### setFr -/

@[simp] theorem State.setFr_cfg (r : FaultRecord) : (s.setFr r).cfg = s.cfg := rfl
@[simp] theorem State.setFr_desc (r : FaultRecord) : (s.setFr r).desc = s.desc := rfl
@[simp] theorem State.setFr_enable (r : FaultRecord) : (s.setFr r).enable = s.enable := rfl
@[simp] theorem State.setFr_ext (r : FaultRecord) : (s.setFr r).ext = s.ext := rfl
@[simp] theorem State.setFr_fr (r : FaultRecord) : (s.setFr r).fr = r := rfl
@[simp] theorem State.setFr_trapmask (r : FaultRecord) : (s.setFr r).trapmask = s.trapmask := rfl
@[simp] theorem State.setFr_pend (r : FaultRecord) : (s.setFr r).pend = s.pend := rfl
@[simp] theorem State.setFr_owner (r : FaultRecord) : (s.setFr r).owner = s.owner := rfl
@[simp] theorem State.setFr_vec (r : FaultRecord) : (s.setFr r).vec = s.vec := rfl
@[simp] theorem State.setFr_pirq (r : FaultRecord) : (s.setFr r).pirq = s.pirq := rfl
@[simp] theorem State.setFr_iplShadow (r : FaultRecord) : (s.setFr r).iplShadow = s.iplShadow := rfl
@[simp] theorem State.setFr_windows (r : FaultRecord) : (s.setFr r).windows = s.windows := rfl
@[simp] theorem State.setFr_mem (r : FaultRecord) : (s.setFr r).mem = s.mem := rfl
@[simp] theorem State.setFr_refused (r : FaultRecord) : (s.setFr r).refused = s.refused := rfl
@[simp] theorem State.setFr_stopped (r : FaultRecord) : (s.setFr r).stopped = s.stopped := rfl
@[simp] theorem State.setFr_configError (r : FaultRecord) : (s.setFr r).configError = s.configError := rfl
@[simp] theorem State.setFr_commands (r : FaultRecord) : (s.setFr r).commands = s.commands := rfl
@[simp] theorem State.setFr_ops (r : FaultRecord) : (s.setFr r).ops = s.ops := rfl
@[simp] theorem State.setFr_answer (r : FaultRecord) : (s.setFr r).answer = s.answer := rfl
@[simp] theorem State.setFr_devCalls (r : FaultRecord) : (s.setFr r).devCalls = s.devCalls := rfl
@[simp] theorem State.setFr_draws (r : FaultRecord) : (s.setFr r).draws = s.draws := rfl

/-! ### clearFr -/

@[simp] theorem State.clearFr_cfg : s.clearFr.cfg = s.cfg := rfl
@[simp] theorem State.clearFr_desc : s.clearFr.desc = s.desc := rfl
@[simp] theorem State.clearFr_enable : s.clearFr.enable = s.enable := rfl
@[simp] theorem State.clearFr_ext : s.clearFr.ext = s.ext := rfl
@[simp] theorem State.clearFr_fr : s.clearFr.fr = FaultRecord.empty := rfl
@[simp] theorem State.clearFr_trapmask : s.clearFr.trapmask = s.trapmask := rfl
@[simp] theorem State.clearFr_pend : s.clearFr.pend = s.pend := rfl
@[simp] theorem State.clearFr_owner : s.clearFr.owner = s.owner := rfl
@[simp] theorem State.clearFr_vec : s.clearFr.vec = s.vec := rfl
@[simp] theorem State.clearFr_pirq : s.clearFr.pirq = s.pirq := rfl
@[simp] theorem State.clearFr_iplShadow : s.clearFr.iplShadow = s.iplShadow := rfl
@[simp] theorem State.clearFr_windows : s.clearFr.windows = s.windows := rfl
@[simp] theorem State.clearFr_mem : s.clearFr.mem = s.mem := rfl
@[simp] theorem State.clearFr_refused : s.clearFr.refused = s.refused := rfl
@[simp] theorem State.clearFr_stopped : s.clearFr.stopped = s.stopped := rfl
@[simp] theorem State.clearFr_configError : s.clearFr.configError = s.configError := rfl
@[simp] theorem State.clearFr_commands : s.clearFr.commands = s.commands := rfl
@[simp] theorem State.clearFr_ops : s.clearFr.ops = s.ops := rfl
@[simp] theorem State.clearFr_answer : s.clearFr.answer = s.answer := rfl
@[simp] theorem State.clearFr_devCalls : s.clearFr.devCalls = s.devCalls := rfl
@[simp] theorem State.clearFr_draws : s.clearFr.draws = s.draws := rfl

/-! ### setTrapmask -/

@[simp] theorem State.setTrapmask_cfg (m : BitVec 16) : (s.setTrapmask m).cfg = s.cfg := rfl
@[simp] theorem State.setTrapmask_desc (m : BitVec 16) : (s.setTrapmask m).desc = s.desc := rfl
@[simp] theorem State.setTrapmask_enable (m : BitVec 16) : (s.setTrapmask m).enable = s.enable := rfl
@[simp] theorem State.setTrapmask_ext (m : BitVec 16) : (s.setTrapmask m).ext = s.ext := rfl
@[simp] theorem State.setTrapmask_fr (m : BitVec 16) : (s.setTrapmask m).fr = s.fr := rfl
@[simp] theorem State.setTrapmask_trapmask (m : BitVec 16) : (s.setTrapmask m).trapmask = m := rfl
@[simp] theorem State.setTrapmask_pend (m : BitVec 16) : (s.setTrapmask m).pend = s.pend := rfl
@[simp] theorem State.setTrapmask_owner (m : BitVec 16) : (s.setTrapmask m).owner = s.owner := rfl
@[simp] theorem State.setTrapmask_vec (m : BitVec 16) : (s.setTrapmask m).vec = s.vec := rfl
@[simp] theorem State.setTrapmask_pirq (m : BitVec 16) : (s.setTrapmask m).pirq = s.pirq := rfl
@[simp] theorem State.setTrapmask_iplShadow (m : BitVec 16) : (s.setTrapmask m).iplShadow = s.iplShadow := rfl
@[simp] theorem State.setTrapmask_windows (m : BitVec 16) : (s.setTrapmask m).windows = s.windows := rfl
@[simp] theorem State.setTrapmask_mem (m : BitVec 16) : (s.setTrapmask m).mem = s.mem := rfl
@[simp] theorem State.setTrapmask_refused (m : BitVec 16) : (s.setTrapmask m).refused = s.refused := rfl
@[simp] theorem State.setTrapmask_stopped (m : BitVec 16) : (s.setTrapmask m).stopped = s.stopped := rfl
@[simp] theorem State.setTrapmask_configError (m : BitVec 16) : (s.setTrapmask m).configError = s.configError := rfl
@[simp] theorem State.setTrapmask_commands (m : BitVec 16) : (s.setTrapmask m).commands = s.commands := rfl
@[simp] theorem State.setTrapmask_ops (m : BitVec 16) : (s.setTrapmask m).ops = s.ops := rfl
@[simp] theorem State.setTrapmask_answer (m : BitVec 16) : (s.setTrapmask m).answer = s.answer := rfl
@[simp] theorem State.setTrapmask_devCalls (m : BitVec 16) : (s.setTrapmask m).devCalls = s.devCalls := rfl
@[simp] theorem State.setTrapmask_draws (m : BitVec 16) : (s.setTrapmask m).draws = s.draws := rfl

/-! ### postTrap -/

@[simp] theorem State.postTrap_cfg (k : Nat) : (s.postTrap k).cfg = s.cfg := rfl
@[simp] theorem State.postTrap_desc (k : Nat) : (s.postTrap k).desc = s.desc := rfl
@[simp] theorem State.postTrap_enable (k : Nat) : (s.postTrap k).enable = s.enable := rfl
@[simp] theorem State.postTrap_ext (k : Nat) : (s.postTrap k).ext = s.ext := rfl
@[simp] theorem State.postTrap_fr (k : Nat) : (s.postTrap k).fr = s.fr := rfl
@[simp] theorem State.postTrap_trapmask (k : Nat) : (s.postTrap k).trapmask = setBit s.trapmask k := rfl
@[simp] theorem State.postTrap_pend (k : Nat) : (s.postTrap k).pend = s.pend := rfl
@[simp] theorem State.postTrap_owner (k : Nat) : (s.postTrap k).owner = s.owner := rfl
@[simp] theorem State.postTrap_vec (k : Nat) : (s.postTrap k).vec = s.vec := rfl
@[simp] theorem State.postTrap_pirq (k : Nat) : (s.postTrap k).pirq = s.pirq := rfl
@[simp] theorem State.postTrap_iplShadow (k : Nat) : (s.postTrap k).iplShadow = s.iplShadow := rfl
@[simp] theorem State.postTrap_windows (k : Nat) : (s.postTrap k).windows = s.windows := rfl
@[simp] theorem State.postTrap_mem (k : Nat) : (s.postTrap k).mem = s.mem := rfl
@[simp] theorem State.postTrap_refused (k : Nat) : (s.postTrap k).refused = s.refused := rfl
@[simp] theorem State.postTrap_stopped (k : Nat) : (s.postTrap k).stopped = s.stopped := rfl
@[simp] theorem State.postTrap_configError (k : Nat) : (s.postTrap k).configError = s.configError := rfl
@[simp] theorem State.postTrap_commands (k : Nat) : (s.postTrap k).commands = s.commands := rfl
@[simp] theorem State.postTrap_ops (k : Nat) : (s.postTrap k).ops = s.ops := rfl
@[simp] theorem State.postTrap_answer (k : Nat) : (s.postTrap k).answer = s.answer := rfl
@[simp] theorem State.postTrap_devCalls (k : Nat) : (s.postTrap k).devCalls = s.devCalls := rfl
@[simp] theorem State.postTrap_draws (k : Nat) : (s.postTrap k).draws = s.draws := rfl

/-! ### setPend -/

@[simp] theorem State.setPend_cfg (l : Level) (m : BitVec 32) : (s.setPend l m).cfg = s.cfg := rfl
@[simp] theorem State.setPend_desc (l : Level) (m : BitVec 32) : (s.setPend l m).desc = s.desc := rfl
@[simp] theorem State.setPend_enable (l : Level) (m : BitVec 32) : (s.setPend l m).enable = s.enable := rfl
@[simp] theorem State.setPend_ext (l : Level) (m : BitVec 32) : (s.setPend l m).ext = s.ext := rfl
@[simp] theorem State.setPend_fr (l : Level) (m : BitVec 32) : (s.setPend l m).fr = s.fr := rfl
@[simp] theorem State.setPend_trapmask (l : Level) (m : BitVec 32) : (s.setPend l m).trapmask = s.trapmask := rfl
@[simp] theorem State.setPend_pend (l : Level) (m : BitVec 32) : (s.setPend l m).pend = s.pend.set l.toNat m l.isLt := rfl
@[simp] theorem State.setPend_owner (l : Level) (m : BitVec 32) : (s.setPend l m).owner = s.owner := rfl
@[simp] theorem State.setPend_vec (l : Level) (m : BitVec 32) : (s.setPend l m).vec = s.vec := rfl
@[simp] theorem State.setPend_pirq (l : Level) (m : BitVec 32) : (s.setPend l m).pirq = s.pirq := rfl
@[simp] theorem State.setPend_iplShadow (l : Level) (m : BitVec 32) : (s.setPend l m).iplShadow = s.iplShadow := rfl
@[simp] theorem State.setPend_windows (l : Level) (m : BitVec 32) : (s.setPend l m).windows = s.windows := rfl
@[simp] theorem State.setPend_mem (l : Level) (m : BitVec 32) : (s.setPend l m).mem = s.mem := rfl
@[simp] theorem State.setPend_refused (l : Level) (m : BitVec 32) : (s.setPend l m).refused = s.refused := rfl
@[simp] theorem State.setPend_stopped (l : Level) (m : BitVec 32) : (s.setPend l m).stopped = s.stopped := rfl
@[simp] theorem State.setPend_configError (l : Level) (m : BitVec 32) : (s.setPend l m).configError = s.configError := rfl
@[simp] theorem State.setPend_commands (l : Level) (m : BitVec 32) : (s.setPend l m).commands = s.commands := rfl
@[simp] theorem State.setPend_ops (l : Level) (m : BitVec 32) : (s.setPend l m).ops = s.ops := rfl
@[simp] theorem State.setPend_answer (l : Level) (m : BitVec 32) : (s.setPend l m).answer = s.answer := rfl
@[simp] theorem State.setPend_devCalls (l : Level) (m : BitVec 32) : (s.setPend l m).devCalls = s.devCalls := rfl
@[simp] theorem State.setPend_draws (l : Level) (m : BitVec 32) : (s.setPend l m).draws = s.draws := rfl

/-! ### reevaluate -/

@[simp] theorem State.reevaluate_cfg (p : Level) : (s.reevaluate p).cfg = s.cfg := rfl
@[simp] theorem State.reevaluate_desc (p : Level) : (s.reevaluate p).desc = s.desc := rfl
@[simp] theorem State.reevaluate_enable (p : Level) : (s.reevaluate p).enable = s.enable := rfl
@[simp] theorem State.reevaluate_ext (p : Level) : (s.reevaluate p).ext = s.ext := rfl
@[simp] theorem State.reevaluate_fr (p : Level) : (s.reevaluate p).fr = s.fr := rfl
@[simp] theorem State.reevaluate_trapmask (p : Level) : (s.reevaluate p).trapmask = withAggregate s.trapmask (s.aggregate p) := rfl
@[simp] theorem State.reevaluate_pend (p : Level) : (s.reevaluate p).pend = s.pend := rfl
@[simp] theorem State.reevaluate_owner (p : Level) : (s.reevaluate p).owner = s.owner := rfl
@[simp] theorem State.reevaluate_vec (p : Level) : (s.reevaluate p).vec = s.vec := rfl
@[simp] theorem State.reevaluate_pirq (p : Level) : (s.reevaluate p).pirq = s.pirq := rfl
@[simp] theorem State.reevaluate_iplShadow (p : Level) : (s.reevaluate p).iplShadow = p := rfl
@[simp] theorem State.reevaluate_windows (p : Level) : (s.reevaluate p).windows = s.windows := rfl
@[simp] theorem State.reevaluate_mem (p : Level) : (s.reevaluate p).mem = s.mem := rfl
@[simp] theorem State.reevaluate_refused (p : Level) : (s.reevaluate p).refused = s.refused := rfl
@[simp] theorem State.reevaluate_stopped (p : Level) : (s.reevaluate p).stopped = s.stopped := rfl
@[simp] theorem State.reevaluate_configError (p : Level) : (s.reevaluate p).configError = s.configError := rfl
@[simp] theorem State.reevaluate_commands (p : Level) : (s.reevaluate p).commands = s.commands := rfl
@[simp] theorem State.reevaluate_ops (p : Level) : (s.reevaluate p).ops = s.ops := rfl
@[simp] theorem State.reevaluate_answer (p : Level) : (s.reevaluate p).answer = s.answer := rfl
@[simp] theorem State.reevaluate_devCalls (p : Level) : (s.reevaluate p).devCalls = s.devCalls := rfl
@[simp] theorem State.reevaluate_draws (p : Level) : (s.reevaluate p).draws = s.draws := rfl

/-! ### writePirq -/

@[simp] theorem State.writePirq_cfg (v : Word) : (s.writePirq v).cfg = s.cfg := rfl
@[simp] theorem State.writePirq_desc (v : Word) : (s.writePirq v).desc = s.desc := rfl
@[simp] theorem State.writePirq_enable (v : Word) : (s.writePirq v).enable = s.enable := rfl
@[simp] theorem State.writePirq_ext (v : Word) : (s.writePirq v).ext = s.ext := rfl
@[simp] theorem State.writePirq_fr (v : Word) : (s.writePirq v).fr = s.fr := rfl
@[simp] theorem State.writePirq_trapmask (v : Word) : (s.writePirq v).trapmask = withAggregate s.trapmask (({ s with pirq := v.extractLsb' 9 7 } : State).aggregate s.iplShadow) := rfl
@[simp] theorem State.writePirq_pend (v : Word) : (s.writePirq v).pend = s.pend := rfl
@[simp] theorem State.writePirq_owner (v : Word) : (s.writePirq v).owner = s.owner := rfl
@[simp] theorem State.writePirq_vec (v : Word) : (s.writePirq v).vec = s.vec := rfl
@[simp] theorem State.writePirq_pirq (v : Word) : (s.writePirq v).pirq = v.extractLsb' 9 7 := rfl
@[simp] theorem State.writePirq_iplShadow (v : Word) : (s.writePirq v).iplShadow = s.iplShadow := rfl
@[simp] theorem State.writePirq_windows (v : Word) : (s.writePirq v).windows = s.windows := rfl
@[simp] theorem State.writePirq_mem (v : Word) : (s.writePirq v).mem = s.mem := rfl
@[simp] theorem State.writePirq_refused (v : Word) : (s.writePirq v).refused = s.refused := rfl
@[simp] theorem State.writePirq_stopped (v : Word) : (s.writePirq v).stopped = s.stopped := rfl
@[simp] theorem State.writePirq_configError (v : Word) : (s.writePirq v).configError = s.configError := rfl
@[simp] theorem State.writePirq_commands (v : Word) : (s.writePirq v).commands = s.commands := rfl
@[simp] theorem State.writePirq_ops (v : Word) : (s.writePirq v).ops = s.ops := rfl
@[simp] theorem State.writePirq_answer (v : Word) : (s.writePirq v).answer = s.answer := rfl
@[simp] theorem State.writePirq_devCalls (v : Word) : (s.writePirq v).devCalls = s.devCalls := rfl
@[simp] theorem State.writePirq_draws (v : Word) : (s.writePirq v).draws = s.draws := rfl

/-! ### writeTrapclr -/

@[simp] theorem State.writeTrapclr_cfg (v : Word) : (s.writeTrapclr v).cfg = s.cfg := rfl
@[simp] theorem State.writeTrapclr_desc (v : Word) : (s.writeTrapclr v).desc = s.desc := rfl
@[simp] theorem State.writeTrapclr_enable (v : Word) : (s.writeTrapclr v).enable = s.enable := rfl
@[simp] theorem State.writeTrapclr_ext (v : Word) : (s.writeTrapclr v).ext = s.ext := rfl
@[simp] theorem State.writeTrapclr_fr (v : Word) : (s.writeTrapclr v).fr = s.fr := rfl
@[simp] theorem State.writeTrapclr_trapmask (v : Word) : (s.writeTrapclr v).trapmask = clearPersistent s.cfg.persistSet v s.trapmask := rfl
@[simp] theorem State.writeTrapclr_pend (v : Word) : (s.writeTrapclr v).pend = s.pend := rfl
@[simp] theorem State.writeTrapclr_owner (v : Word) : (s.writeTrapclr v).owner = s.owner := rfl
@[simp] theorem State.writeTrapclr_vec (v : Word) : (s.writeTrapclr v).vec = s.vec := rfl
@[simp] theorem State.writeTrapclr_pirq (v : Word) : (s.writeTrapclr v).pirq = s.pirq := rfl
@[simp] theorem State.writeTrapclr_iplShadow (v : Word) : (s.writeTrapclr v).iplShadow = s.iplShadow := rfl
@[simp] theorem State.writeTrapclr_windows (v : Word) : (s.writeTrapclr v).windows = s.windows := rfl
@[simp] theorem State.writeTrapclr_mem (v : Word) : (s.writeTrapclr v).mem = s.mem := rfl
@[simp] theorem State.writeTrapclr_refused (v : Word) : (s.writeTrapclr v).refused = s.refused := rfl
@[simp] theorem State.writeTrapclr_stopped (v : Word) : (s.writeTrapclr v).stopped = s.stopped := rfl
@[simp] theorem State.writeTrapclr_configError (v : Word) : (s.writeTrapclr v).configError = s.configError := rfl
@[simp] theorem State.writeTrapclr_commands (v : Word) : (s.writeTrapclr v).commands = s.commands := rfl
@[simp] theorem State.writeTrapclr_ops (v : Word) : (s.writeTrapclr v).ops = s.ops := rfl
@[simp] theorem State.writeTrapclr_answer (v : Word) : (s.writeTrapclr v).answer = s.answer := rfl
@[simp] theorem State.writeTrapclr_devCalls (v : Word) : (s.writeTrapclr v).devCalls = s.devCalls := rfl
@[simp] theorem State.writeTrapclr_draws (v : Word) : (s.writeTrapclr v).draws = s.draws := rfl

/-! ### systemReset -/

@[simp] theorem State.systemReset_cfg : s.systemReset.cfg = s.cfg := rfl
@[simp] theorem State.systemReset_desc : s.systemReset.desc = Vector.replicate 64 Desc.zero := rfl
@[simp] theorem State.systemReset_enable : s.systemReset.enable = false := rfl
@[simp] theorem State.systemReset_ext : s.systemReset.ext = false := rfl
@[simp] theorem State.systemReset_fr : s.systemReset.fr = FaultRecord.empty := rfl
@[simp] theorem State.systemReset_trapmask : s.systemReset.trapmask = 0#16 := rfl
@[simp] theorem State.systemReset_pend : s.systemReset.pend = Vector.replicate 8 0#32 := rfl
@[simp] theorem State.systemReset_owner : s.systemReset.owner = s.owner := rfl
@[simp] theorem State.systemReset_vec : s.systemReset.vec = s.vec := rfl
@[simp] theorem State.systemReset_pirq : s.systemReset.pirq = 0#7 := rfl
@[simp] theorem State.systemReset_iplShadow : s.systemReset.iplShadow = 7#3 := rfl
@[simp] theorem State.systemReset_windows : s.systemReset.windows = s.windows := rfl
@[simp] theorem State.systemReset_mem : s.systemReset.mem = s.mem := rfl
@[simp] theorem State.systemReset_refused : s.systemReset.refused = s.refused := rfl
@[simp] theorem State.systemReset_stopped : s.systemReset.stopped = s.stopped := rfl
@[simp] theorem State.systemReset_configError : s.systemReset.configError = s.configError := rfl
@[simp] theorem State.systemReset_commands : s.systemReset.commands = s.commands := rfl
@[simp] theorem State.systemReset_ops : s.systemReset.ops = s.ops := rfl
@[simp] theorem State.systemReset_answer : s.systemReset.answer = s.answer := rfl
@[simp] theorem State.systemReset_devCalls : s.systemReset.devCalls = s.devCalls := rfl
@[simp] theorem State.systemReset_draws : s.systemReset.draws = s.draws := rfl

/-! ### accept -/

@[simp] theorem State.accept_cfg (c : Command) (rest : List Command) : (s.accept c rest).cfg = s.cfg := rfl
@[simp] theorem State.accept_desc (c : Command) (rest : List Command) : (s.accept c rest).desc = s.desc := rfl
@[simp] theorem State.accept_enable (c : Command) (rest : List Command) : (s.accept c rest).enable = s.enable := rfl
@[simp] theorem State.accept_ext (c : Command) (rest : List Command) : (s.accept c rest).ext = s.ext := rfl
@[simp] theorem State.accept_fr (c : Command) (rest : List Command) : (s.accept c rest).fr = s.fr := rfl
@[simp] theorem State.accept_trapmask (c : Command) (rest : List Command) : (s.accept c rest).trapmask = s.trapmask := rfl
@[simp] theorem State.accept_pend (c : Command) (rest : List Command) : (s.accept c rest).pend = s.pend := rfl
@[simp] theorem State.accept_owner (c : Command) (rest : List Command) : (s.accept c rest).owner = s.owner := rfl
@[simp] theorem State.accept_vec (c : Command) (rest : List Command) : (s.accept c rest).vec = s.vec := rfl
@[simp] theorem State.accept_pirq (c : Command) (rest : List Command) : (s.accept c rest).pirq = s.pirq := rfl
@[simp] theorem State.accept_iplShadow (c : Command) (rest : List Command) : (s.accept c rest).iplShadow = s.iplShadow := rfl
@[simp] theorem State.accept_windows (c : Command) (rest : List Command) : (s.accept c rest).windows = s.windows := rfl
@[simp] theorem State.accept_mem (c : Command) (rest : List Command) : (s.accept c rest).mem = s.mem := rfl
@[simp] theorem State.accept_refused (c : Command) (rest : List Command) : (s.accept c rest).refused = s.refused := rfl
@[simp] theorem State.accept_stopped (c : Command) (rest : List Command) : (s.accept c rest).stopped = s.stopped := rfl
@[simp] theorem State.accept_configError (c : Command) (rest : List Command) : (s.accept c rest).configError = s.configError := rfl
@[simp] theorem State.accept_commands (c : Command) (rest : List Command) : (s.accept c rest).commands = rest := rfl
@[simp] theorem State.accept_ops (c : Command) (rest : List Command) : (s.accept c rest).ops = c.ops := rfl
@[simp] theorem State.accept_answer (c : Command) (rest : List Command) : (s.accept c rest).answer = s.answer := rfl
@[simp] theorem State.accept_devCalls (c : Command) (rest : List Command) : (s.accept c rest).devCalls = [] := rfl
@[simp] theorem State.accept_draws (c : Command) (rest : List Command) : (s.accept c rest).draws = s.draws := rfl

end Sys2Proof.Machine
end

