-- ==== Sys2Proof/Laws/Bus.lean ====
section
/-! SUPPORT. Routing (43_bus): windows, everything a routed access can do, and how a command ends. -/

namespace Sys2Proof.Machine

/-! ### Windows -/

/-- Where no two windows overlap, Lookup finds the window that holds the address (43_bus R329). -/
theorem lookup_of_mem {s : State} (hd : s.windows.Pairwise (fun w v => w.limit ≤ v.base ∨ v.limit ≤ w.base))
    {w : Window} {pa : Nat} (hw : w ∈ s.windows) (h1 : w.base ≤ pa) (h2 : pa < w.limit) : s.lookup pa = some w := by
  unfold State.lookup
  generalize s.windows = ws at hd hw
  induction ws with
  | nil => simp at hw
  | cons v rest ih =>
    rw [List.pairwise_cons] at hd
    rcases List.mem_cons.1 hw with rfl | hr
    · simp [h1, h2]
    · have : ¬ (v.base ≤ pa ∧ pa < v.limit) := by
        have := hd.1 w hr
        omega
      rw [List.find?_cons_of_neg (by simpa using this)]
      exact ih hd.2 hr

theorem lookup_eq_none (s : State) (pa : Nat) : s.lookup pa = none ↔ ∀ w ∈ s.windows, ¬ (w.base ≤ pa ∧ pa < w.limit) := by
  simp [State.lookup, List.find?_eq_none]

theorem lookup_eq_some {s : State} {pa : Nat} {w : Window} (h : s.lookup pa = some w) :
    w ∈ s.windows ∧ w.base ≤ pa ∧ pa < w.limit :=
  ⟨List.mem_of_find?_eq_some h, by simpa using List.find?_some h⟩

/-- The built-in windows stand in the I/O page (10_state R56). -/
theorem builtinWindows_bounds {c : Config} {w : Window} (h : w ∈ builtinWindows c) :
    c.ioPageBase ≤ w.base ∧ w.limit ≤ c.ioPageBase + 8192 ∧ w.dev = BLOCK ∧
    ∀ off, w.base ≤ c.ioPageBase + off → c.ioPageBase + off < w.limit → (regAt (off - off % 2)).isSome = true := by
  simp only [builtinWindows, List.mem_cons, List.not_mem_nil, or_false] at h
  rcases h with rfl | rfl | rfl | rfl | rfl | rfl | rfl <;>
    (refine ⟨by simp, by simp, rfl, fun off h1 h2 => ?_⟩
     simp only [] at h1 h2
     unfold regAt
     split; · rfl
     split; · rfl
     split; · rfl
     split; · rfl
     split; · rfl
     split; · rfl
     split; · rfl
     split; · rfl
     omega)

theorem ioPageBase_add (c : Config) : c.ioPageBase + 8192 = 2 ^ c.paw.bits := by
  unfold Config.ioPageBase; cases c.paw <;> decide

theorem ioPageBase_even (c : Config) : c.ioPageBase % 2 = 0 := by
  unfold Config.ioPageBase; cases c.paw <;> decide

/-! ### Routing -/

/-- A routed access that the alignment policy lets through (20_memory R84). -/
theorem route_aligned (s : State) (k : Kind) (x : Width) (pa : Nat) (d : Word) (h : x = .word → pa % 2 = 0) :
    route s k x pa d = s.routeAt k x pa d := by
  unfold route
  rw [if_neg]
  rintro ⟨hx, ho⟩
  have := h hx
  omega

theorem routeAt_read_memory (s : State) (x : Width) (pa : Nat) (d : Word) (h : pa < s.cfg.memSize) :
    s.routeAt .read x pa d = .ok s (memRead s.mem pa x) := by
  unfold State.routeAt; rw [if_pos h]

theorem routeAt_write_memory (s : State) (x : Width) (pa : Nat) (d : Word) (h : pa < s.cfg.memSize) :
    s.routeAt .write x pa d = .ok { s with mem := memWrite s.mem pa x d } 0#16 := by
  unfold State.routeAt; rw [if_pos h]

/-- An address in a window of the invariant's list is routed to that window. -/
theorem routeAt_window {s : State} (hi : s.Inv) {w : Window} (hw : w ∈ s.windows) (k : Kind) (x : Width) {pa : Nat}
    (d : Word) (h0 : s.cfg.ioPageBase ≤ pa) (h1 : w.base ≤ pa) (h2 : pa < w.limit) :
    s.routeAt k x pa d = if w.dev = BLOCK then s.regAccess k x (pa - s.cfg.ioPageBase) d
      else s.deviceAccess w.dev k x (pa - w.base) d := by
  unfold State.routeAt
  have : s.cfg.memSize ≤ s.cfg.ioPageBase := hi.params.2.2.2.1
  rw [if_neg (by omega), if_pos h0, lookup_of_mem hi.windowsApart hw h1 h2]

/-- An access of a built-in register (43_bus R322). -/
theorem route_register {s : State} (hi : s.Inv) {w : Window} (hw : w ∈ builtinWindows s.cfg) (k : Kind) (x : Width)
    {off : Nat} (d : Word) (h1 : w.base ≤ s.cfg.ioPageBase + off) (h2 : s.cfg.ioPageBase + off < w.limit)
    (hx : x = .word → off % 2 = 0) :
    route s k x (s.cfg.ioPageBase + off) d = s.regAccess k x off d := by
  have he := ioPageBase_even s.cfg
  rw [route_aligned _ _ _ _ _ (fun h => by have := hx h; omega),
    routeAt_window hi (hi.builtinPresent w hw) k x d (by omega) h1 h2, if_pos (builtinWindows_bounds hw).2.2.1,
    Nat.add_sub_cancel_left]

theorem routeAt_nothing (s : State) (k : Kind) (x : Width) (pa : Nat) (d : Word) (hm : s.cfg.memSize ≤ pa)
    (h : pa < s.cfg.ioPageBase ∨ ∀ w ∈ s.windows, ¬ (w.base ≤ pa ∧ pa < w.limit)) : s.routeAt k x pa d = .nxm s := by
  unfold State.routeAt
  rw [if_neg (by omega)]
  split
  · rename_i hb
    rw [(lookup_eq_none s pa).2 (h.resolve_left (by omega))]
  · rfl

/-! ### Everything a routed access can do (43_bus R320) -/

/-- The cases of a register write: which state it leaves (44_register_surface R360). -/
theorem regAccess_cases (s : State) (k : Kind) (x : Width) (off : Nat) (d : Word) :
    s.regAccess k x off d = .nxm s ∨
    (k = .read ∧ ∃ v, s.regAccess k x off d = .ok s v) ∨
    (k = .write ∧ ∃ r v, s.regAccess k x off d = .ok (s.regWrite r v) 0#16) := by
  unfold State.regAccess
  cases regAt (off - off % 2) with
  | none => exact .inl rfl
  | some r =>
    cases k <;> cases x
    · exact .inr (.inl ⟨rfl, _, rfl⟩)
    · exact .inr (.inl ⟨rfl, _, rfl⟩)
    · exact .inr (.inr ⟨rfl, r, _, rfl⟩)
    · exact .inr (.inr ⟨rfl, r, _, rfl⟩)

/-- The state after an access was forwarded to a device (43_bus R322). -/
def afterDeviceCall (s : State) (call : DevCall) : State :=
  { s with devCalls := s.devCalls ++ [call], draws := s.draws + 1 }

theorem deviceAccess_cases (s : State) (dev : DevId) (k : Kind) (x : Width) (off : Nat) (d : Word) :
    ∃ call, s.deviceAccess dev k x off d = .nxm (afterDeviceCall s call) ∨
      ∃ v, s.deviceAccess dev k x off d = .ok (afterDeviceCall s call) v := by
  cases k <;> simp only [State.deviceAccess]
  · refine ⟨⟨dev, .read, off, x, 0#16⟩, ?_⟩
    split
    · exact .inr ⟨_, rfl⟩
    · exact .inl rfl
  · refine ⟨⟨dev, .write, off, x, writeData x d⟩, ?_⟩
    split
    · exact .inr ⟨_, rfl⟩
    · exact .inl rfl

/-- The cases of a routed access. -/
inductive RouteCase (s : State) (k : Kind) (x : Width) : Routed → Prop
  | memoryRead (v : Word) (hk : k = .read) : RouteCase s k x (.ok s v)
  | memoryWrite (pa : Nat) (d : Word) (hk : k = .write) (hm : pa < s.cfg.memSize) (ha : x = .word → pa % 2 = 0) :
      RouteCase s k x (.ok { s with mem := memWrite s.mem pa x d } 0#16)
  | registerRead (v : Word) (hk : k = .read) : RouteCase s k x (.ok s v)
  | registerWrite (r : Reg) (v : Word) (hk : k = .write) : RouteCase s k x (.ok (s.regWrite r v) 0#16)
  | nothing : RouteCase s k x (.nxm s)
  | deviceOk (call : DevCall) (v : Word) : RouteCase s k x (.ok (afterDeviceCall s call) v)
  | deviceNxm (call : DevCall) : RouteCase s k x (.nxm (afterDeviceCall s call))
  | oddWord : RouteCase s k x (.refused s .oddWord)

theorem routeAt_cases (s : State) (k : Kind) (x : Width) (pa : Nat) (d : Word) (ha : x = .word → pa % 2 = 0) :
    RouteCase s k x (s.routeAt k x pa d) := by
  by_cases hm : pa < s.cfg.memSize
  · cases k
    · rw [routeAt_read_memory _ _ _ _ hm]; exact .memoryRead _ rfl
    · rw [routeAt_write_memory _ _ _ _ hm]; exact .memoryWrite _ _ rfl hm ha
  · unfold State.routeAt
    rw [if_neg hm]
    split
    · split
      · exact .nothing
      · rename_i w _
        split
        · rcases regAccess_cases s k x (pa - s.cfg.ioPageBase) d with h | ⟨hk, v, h⟩ | ⟨hk, r, v, h⟩ <;> rw [h]
          · exact .nothing
          · exact .registerRead _ hk
          · exact .registerWrite _ _ hk
        · obtain ⟨call, h | ⟨v, h⟩⟩ := deviceAccess_cases s w.dev k x (pa - w.base) d <;> rw [h]
          · exact .deviceNxm _
          · exact .deviceOk _ _
    · exact .nothing

theorem route_cases (s : State) (k : Kind) (x : Width) (pa : Nat) (d : Word) : RouteCase s k x (route s k x pa d) := by
  unfold route
  split
  · rename_i h
    split
    · exact .oddWord
    · exact routeAt_cases _ _ _ _ _ (fun _ => by omega)
  · rename_i h
    exact routeAt_cases _ _ _ _ _ (fun hx => by
      rcases Nat.mod_two_eq_zero_or_one pa with h0 | h1
      · exact h0
      · exact absurd ⟨hx, h1⟩ h)

/-! ### Register writes -/

/-- The cases of `RegWrite`: each changes the fields of its register alone. -/
theorem regWrite_frame (s : State) (r : Reg) (v : Word) :
    s.regWrite r v = { s with
      desc := (s.regWrite r v).desc, enable := (s.regWrite r v).enable, ext := (s.regWrite r v).ext
      fr := (s.regWrite r v).fr, trapmask := (s.regWrite r v).trapmask, pirq := (s.regWrite r v).pirq } := by
  cases r
  · simp only [State.regWrite, State.writeSr0]; split <;> rfl
  · rfl
  · simp only [State.regWrite, State.writeSr3]; split <;> rfl
  all_goals rfl

/-! ### Endings -/

@[simp] theorem finish_answer (s0 s : State) (a : Answer) : finish s0 (.answer s a) = .next { s with answer := some a } := rfl

@[simp] theorem finish_refuse (s0 s : State) (why : RefuseReason) : finish s0 (.refuse s why) =
    .next { s0 with
      refused := true, devCalls := s.devCalls, draws := s.draws, answer := some (Answer.refusal why) } := rfl

@[simp] theorem finish_stop (s0 s : State) :
    finish s0 (.stop s) = .next { s with stopped := true, answer := some (Answer.bare .doubleFault) } := rfl

end Sys2Proof.Machine
end

