-- ==== Sys2Proof/Laws/Decode.lean ====
section
/-! SUPPORT. Decoding (30_encoding R130): the opcode map's rows, what a word decodes to, masks and matches. -/

namespace Sys2Proof

/-- No two rows of the opcode map have one OP value (30_encoding R123, R130). -/
theorem opcodeMap_distinct : (opcodeMap.map OpRow.op).Nodup := by decide

/-- Every format reserves bits below OP only (30_encoding R122). -/
theorem reserved_low (f : Format) : f.reserved &&& 0xFC000000#32 = 0#32 := by cases f <;> decide

/-- What a word decodes to: the command of the one row whose OP it has, when the row's reserved bits are 0. -/
theorem decode_eq_ok (w : Word32) (i : Instr) :
    decode w = .ok i ↔
      ∃ row ∈ opcodeMap, row.op = opField w ∧ w &&& row.format.reserved = 0#32 ∧ row.build w = i := by
  unfold decode
  constructor
  · intro h
    cases hf : opcodeMap.find? (fun row => row.op == opField w) with
    | none => rw [hf] at h; simp at h
    | some row =>
      rw [hf] at h
      simp only at h
      split at h
      · rename_i hr
        exact ⟨row, List.mem_of_find?_eq_some hf, by simpa using List.find?_some hf, hr, by simpa using h⟩
      · simp at h
  · rintro ⟨row, hm, hop, hr, hb⟩
    have hf : opcodeMap.find? (fun row => row.op == opField w) = some row := by
      cases hf : opcodeMap.find? (fun row => row.op == opField w) with
      | none =>
        rw [List.find?_eq_none] at hf
        exact absurd hop (by simpa using hf row hm)
      | some row' =>
        have h' : row'.op = opField w := by simpa using List.find?_some hf
        exact congrArg some (List.inj_on_of_nodup_map opcodeMap_distinct (List.mem_of_find?_eq_some hf) hm (h'.trans hop.symm))
    rw [hf]
    simp only [hr, if_true, hb]

/-- A decoding error, by name (30_encoding R128, R129). -/
theorem decode_eq_error (w : Word32) (e : DecodeError) :
    decode w = .error e ↔
      ((∀ row ∈ opcodeMap, row.op ≠ opField w) ∧ e = .unassignedOp (opField w)) ∨
      ((∃ row ∈ opcodeMap, row.op = opField w ∧ w &&& row.format.reserved ≠ 0#32) ∧ e = .reservedBits) := by
  cases hd : decode w with
  | ok i =>
    obtain ⟨row, hm, hop, hr, -⟩ := (decode_eq_ok w i).1 hd
    simp only [reduceCtorEq, false_iff]
    rintro (⟨h, -⟩ | ⟨⟨row', hm', hop', hr'⟩, -⟩)
    · exact h row hm hop
    · have := List.inj_on_of_nodup_map opcodeMap_distinct hm hm' (hop.trans hop'.symm)
      subst this
      exact hr' hr
  | error e' =>
    unfold decode at hd
    cases hf : opcodeMap.find? (fun row => row.op == opField w) with
    | none =>
      rw [hf] at hd
      have hn : ∀ row ∈ opcodeMap, row.op ≠ opField w := by simpa [List.find?_eq_none] using hf
      obtain rfl : DecodeError.unassignedOp (opField w) = e' := by simpa using hd
      simp only [Except.error.injEq]
      constructor
      · rintro rfl; exact .inl ⟨hn, rfl⟩
      · rintro (⟨-, rfl⟩ | ⟨⟨row, hm, hop, -⟩, -⟩)
        · rfl
        · exact absurd hop (hn row hm)
    | some row =>
      rw [hf] at hd
      simp only at hd
      have hm := List.mem_of_find?_eq_some hf
      have hop : row.op = opField w := by simpa using List.find?_some hf
      split at hd
      · simp at hd
      · rename_i hr
        obtain rfl : DecodeError.reservedBits = e' := by simpa using hd
        simp only [Except.error.injEq]
        constructor
        · rintro rfl; exact .inr ⟨⟨row, hm, hop, hr⟩, rfl⟩
        · rintro (⟨h, -⟩ | ⟨-, rfl⟩)
          · exact absurd hop (h row hm)
          · rfl

/-- A word's OP and a set of lower bits, as one mask and match (30_encoding R130). -/
theorem mask_match (w r : Word32) (op : BitVec 6) (hr : r &&& 0xFC000000#32 = 0#32) :
    w &&& (0xFC000000#32 ||| r) = op ++ 0#26 ↔ opField w = op ∧ w &&& r = 0#32 := by
  have hm : ∀ i, (0xFC000000#32).getLsbD i = (decide (26 ≤ i) && decide (i < 32)) := by
    intro i
    by_cases h : i < 32
    · revert i; decide
    · rw [BitVec.getLsbD_of_ge _ _ (by omega)]; simp [h]
  have hv : ∀ i, (op ++ 0#26 : BitVec 32).getLsbD i = (decide (26 ≤ i) && op.getLsbD (i - 26)) := by
    intro i
    have h1 : (op ++ 0#26 : BitVec 32).getLsbD i =
        if i < 26 then (0#26).getLsbD i else op.getLsbD (i - 26) := BitVec.getLsbD_append
    rw [h1]
    by_cases h : i < 26
    · have : ¬ 26 ≤ i := by omega
      simp [h, this]
    · have : 26 ≤ i := by omega
      simp [h, this]
  have hlow : ∀ i, 26 ≤ i → i < 32 → r.getLsbD i = false := by
    intro i h1 h2
    have := congrArg (fun x => x.getLsbD i) hr
    simpa only [BitVec.getLsbD_and, hm, h1, h2, decide_true, Bool.and_true, BitVec.getLsbD_zero] using this
  have ho : ∀ i, i < 6 → (opField w).getLsbD i = w.getLsbD (26 + i) := by
    intro i hi; rw [opField, BitVec.getLsbD_extractLsb']; simp only [hi, decide_true, Bool.true_and]
  constructor
  · intro h
    have hb : ∀ i, (w.getLsbD i && ((decide (26 ≤ i) && decide (i < 32)) || r.getLsbD i)) =
        (decide (26 ≤ i) && op.getLsbD (i - 26)) := by
      intro i
      have := congrArg (fun x => x.getLsbD i) h
      simpa only [BitVec.getLsbD_and, BitVec.getLsbD_or, hm, hv] using this
    constructor
    · apply BitVec.eq_of_getLsbD_eq
      intro i hi
      rw [ho i hi]
      have h2 := hb (26 + i)
      have h3 : 26 ≤ 26 + i := by omega
      have h4 : 26 + i < 32 := by omega
      simpa only [h3, h4, decide_true, Bool.true_and, Bool.true_or, Bool.and_true, Nat.add_sub_cancel_left] using h2
    · apply BitVec.eq_of_getLsbD_eq
      intro i hi
      rw [BitVec.getLsbD_and, BitVec.getLsbD_zero]
      by_cases h26 : 26 ≤ i
      · rw [hlow i h26 hi, Bool.and_false]
      · have h2 := hb i
        simpa only [h26, decide_false, Bool.false_and, Bool.false_or] using h2
  · rintro ⟨h1, h2⟩
    apply BitVec.eq_of_getLsbD_eq
    intro i hi
    rw [BitVec.getLsbD_and, BitVec.getLsbD_or, hm, hv]
    by_cases h26 : 26 ≤ i
    · have := ho (i - 26) (by omega)
      rw [h1, show 26 + (i - 26) = i by omega] at this
      simp only [h26, hi, decide_true, Bool.true_and, Bool.true_or, Bool.and_true, this]
    · have := congrArg (fun x => x.getLsbD i) h2
      simp only [BitVec.getLsbD_and, BitVec.getLsbD_zero] at this
      simp only [h26, decide_false, Bool.false_and, Bool.false_or, this]

end Sys2Proof
end

