-- ==== Sys2Proof/Laws/Interrupts.lean ====
section
/-! SUPPORT. The interrupt fabric (42_interrupts): levels, pending bits, Reevaluate and Acknowledge. -/

namespace Sys2Proof.Machine

/-! ### Levels and requests -/

/-- The scan range is exactly the levels above the priority (42_interrupts R283). -/
@[simp] theorem mem_levelsAbove (ipl l : Level) : l ∈ levelsAbove ipl ↔ ipl < l := by
  revert ipl l; decide

/-- The scan goes from the highest level down. -/
theorem levelsAbove_sorted (ipl : Level) : (levelsAbove ipl).Pairwise (fun l l' => l' < l) := by
  revert ipl; decide

theorem aggregate_iff (s : State) (ipl : Level) : s.aggregate ipl = true ↔ s.requestAbove ipl := by
  simp [State.aggregate, State.requestAbove]

/-- A request depends on the pending masks and the software requests alone. -/
theorem requestAbove_congr {s t : State} (hp : t.pend = s.pend) (hq : t.pirq = s.pirq) (ipl : Level) :
    t.requestAbove ipl ↔ s.requestAbove ipl := by
  simp [State.requestAbove, State.pendAt, State.pirqAt, hp, hq]

/-! ### Pending masks -/

theorem pendAt_setPend (s : State) (l l' : Level) (m : BitVec 32) :
    (s.setPend l m).pendAt l' = if l' = l then m else s.pendAt l' := by
  simp only [State.pendAt, State.setPend, Vector.getElem_set]
  by_cases h : l' = l
  · simp [h]
  · have : ¬ l.toNat = l'.toNat := fun e => h (BitVec.eq_of_toNat_eq e.symm)
    simp [h, this]

/-- Setting one pending bit (42_interrupts R280). -/
theorem getLsbD_pendAt_setBit (s : State) (l l' : Level) (k j : Nat) (hj : j < 32) :
    ((s.setPend l (setBit (s.pendAt l) k)).pendAt l').getLsbD j =
      ((s.pendAt l').getLsbD j || (decide (l' = l) && decide (j = k))) := by
  rw [pendAt_setPend]
  by_cases h : l' = l <;> simp [h, hj]

/-- Clearing one pending bit (42_interrupts R282, R286). -/
theorem getLsbD_pendAt_clearBit (s : State) (l l' : Level) (k j : Nat) :
    ((s.setPend l (clearBit (s.pendAt l) k)).pendAt l').getLsbD j =
      ((s.pendAt l').getLsbD j && !(decide (l' = l) && decide (j = k))) := by
  rw [pendAt_setPend]
  by_cases h : l' = l <;> simp [h]

/-! ### Reevaluate -/

/-- Bit 15 after Reevaluate (42_interrupts R284). -/
theorem reevaluate_bit15 (s : State) (ipl : Level) :
    (s.reevaluate ipl).trapmask.getLsbD 15 = true ↔ s.requestAbove ipl := by
  simp [aggregate_iff]

/-- Reevaluate changes bit 15 of the trap mask alone. -/
theorem reevaluate_other_bits (s : State) (ipl : Level) (j : Nat) (h : j < 15) :
    (s.reevaluate ipl).trapmask.getLsbD j = s.trapmask.getLsbD j := by
  simp; omega

theorem trapmask_withAggregate_self (m : BitVec 16) (b : Bool) (h : m.getLsbD 15 = b) : withAggregate m b = m := by
  apply BitVec.eq_of_getLsbD_eq
  intro j _
  rw [getLsbD_withAggregate]
  split <;> simp_all

/-! ### Acknowledge -/

/-- A scan from the highest level down finds the highest level that has what it looks for. -/
theorem findSome?_sorted {β : Type} (ls : List Level) (h : ls.Pairwise (fun l l' => l' < l)) (f : Level → Option β)
    (l : Level) (b : β) (hl : l ∈ ls) (hf : f l = some b) (hn : ∀ l', l < l' → f l' = none) :
    ls.findSome? f = some b := by
  induction ls with
  | nil => simp at hl
  | cons a rest ih =>
    rw [List.pairwise_cons] at h
    rcases List.mem_cons.1 hl with e | hr
    · subst e; simp [hf]
    · rw [List.findSome?_cons, hn a (h.1 l hr)]
      exact ih h.2 hr

/-- What such a scan passes over does not have what it looks for. -/
theorem find?_sorted_above {ls : List Level} (h : ls.Pairwise (fun l l' => l' < l)) {f : Level → Bool} {m l : Level}
    (hf : ls.find? f = some m) (hl : l ∈ ls) (hm : m < l) : f l = false := by
  induction ls with
  | nil => simp at hl
  | cons a rest ih =>
    rw [List.pairwise_cons] at h
    rw [List.find?_cons] at hf
    cases ha : f a with
    | true =>
      rw [ha] at hf
      obtain rfl : a = m := by simpa using hf
      rcases List.mem_cons.1 hl with rfl | hr
      · exact absurd hm (by simp)
      · exact absurd hm (by have := h.1 l hr; simp only [BitVec.lt_def] at this ⊢; omega)
    | false =>
      rw [ha] at hf
      rcases List.mem_cons.1 hl with rfl | hr
      · exact ha
      · exact ih h.2 hf hr

theorem deviceRequest_eq_some {s : State} {p l : Level} {k : Nat} (hp : p < l)
    (hn : ∀ l', l < l' → s.pendAt l' = 0#32) (hk : (s.pendAt l).getLsbD k = true)
    (hj : ∀ j < k, (s.pendAt l).getLsbD j = false) : s.deviceRequest p = some (l, k) := by
  have hk32 : k < 32 := by
    by_contra hc
    rw [BitVec.getLsbD_of_ge _ _ (by omega)] at hk
    cases hk
  refine findSome?_sorted _ (levelsAbove_sorted p) _ l (l, k) ((mem_levelsAbove p l).2 hp) ?_ ?_
  · rw [(leastSet_eq_some _ _).2 ⟨hk32, hk, hj⟩]; rfl
  · intro l' hl'
    rw [(leastSet_eq_none _).2 (hn l' hl')]; rfl

theorem deviceRequest_eq_none (s : State) (p : Level) :
    s.deviceRequest p = none ↔ ∀ l, p < l → s.pendAt l = 0#32 := by
  simp [State.deviceRequest, List.findSome?_eq_none_iff, leastSet_eq_none]

/-- What a device request that Acknowledge takes is: pending, and in range. -/
theorem deviceRequest_pending {s : State} {p l : Level} {k : Nat} (h : s.deviceRequest p = some (l, k)) :
    p < l ∧ k < 32 ∧ (s.pendAt l).getLsbD k = true := by
  obtain ⟨l', hl', hf⟩ := List.exists_of_findSome?_eq_some h
  rw [mem_levelsAbove] at hl'
  simp only [Option.map_eq_some_iff, Prod.mk.injEq] at hf
  obtain ⟨k', hk', rfl, rfl⟩ := hf
  have := (leastSet_eq_some _ _).1 hk'
  exact ⟨hl', this.1, this.2.1⟩

theorem softwareRequest_eq_none (s : State) (p : Level) :
    s.softwareRequest p = none ↔ ∀ l, p < l → s.pirqAt l = false := by
  simp [State.softwareRequest, List.find?_eq_none]

theorem softwareRequest_pending {s : State} {p l : Level} (h : s.softwareRequest p = some l) :
    p < l ∧ s.pirqAt l = true :=
  ⟨(mem_levelsAbove p l).1 (List.mem_of_find?_eq_some h), by simpa using List.find?_some h⟩

theorem softwareRequest_eq_some {s : State} {p l : Level} (hp : p < l) (hl : s.pirqAt l = true)
    (hn : ∀ l', l < l' → s.pirqAt l' = false) : s.softwareRequest p = some l := by
  unfold State.softwareRequest
  rw [← List.findSome?_guard]
  refine findSome?_sorted _ (levelsAbove_sorted p) _ l l ((mem_levelsAbove p l).2 hp) ?_ ?_
  · simp [Option.guard, hl]
  · intro l' hl'; simp [Option.guard, hn l' hl']

/-- Everything Acknowledge can do (42_interrupts R286). -/
theorem acknowledge_cases (s : State) (p : Level) :
    (∃ l k, p < l ∧ k < 32 ∧ (s.pendAt l).getLsbD k = true ∧
      s.acknowledge p = (s.setPend l (clearBit (s.pendAt l) k), some ⟨s.vecAt l k, l, some (BitVec.ofNat 5 k)⟩)) ∨
    ((∀ l, p < l → s.pendAt l = 0#32) ∧
      ((∃ l, p < l ∧ s.pirqAt l = true ∧ s.acknowledge p = (s, some ⟨swiVector s.cfg l, l, none⟩)) ∨
       ((∀ l, p < l → s.pirqAt l = false) ∧ s.acknowledge p = (s, none)))) := by
  unfold State.acknowledge
  cases hd : s.deviceRequest p with
  | some lk =>
    obtain ⟨l, k⟩ := lk
    obtain ⟨h1, h2, h3⟩ := deviceRequest_pending hd
    exact .inl ⟨l, k, h1, h2, h3, rfl⟩
  | none =>
    refine .inr ⟨(deviceRequest_eq_none s p).1 hd, ?_⟩
    cases hs : s.softwareRequest p with
    | some l =>
      obtain ⟨h1, h2⟩ := softwareRequest_pending hs
      exact .inl ⟨l, h1, h2, rfl⟩
    | none => exact .inr ⟨(softwareRequest_eq_none s p).1 hs, rfl⟩

/-! ### Software requests by bit -/

/-- `S.pirq[L]` is bit `L - 1` (10_state R43). -/
theorem pirqAt_of_bit (s : State) (l : Level) (j : Nat) (h : l.toNat = j + 1) : s.pirqAt l = s.pirq.getLsbD j := by
  have h0 : l ≠ 0#3 := by rintro rfl; simp at h
  simp [State.pirqAt, h0, h]

theorem pirqAt_of_ne_zero (s : State) (l : Level) (h : l ≠ 0#3) : s.pirqAt l = s.pirq.getLsbD (l.toNat - 1) := by
  simp [State.pirqAt, h]

end Sys2Proof.Machine
end

