-- ==== Sys2Proof/Laws/Slots.lean ====
section
/-! SUPPORT. The slot tables (10_state R42): entries, registration, removal, the lowest free run (43_bus R330 to R334). -/

namespace Sys2Proof.Machine

/-! ### Reading an updated table -/

/-- An entry after an update: the function's value where it gives one. Levels 4 to 7, slots 0 to 31. -/
theorem SlotTable.entry_update {α : Type} (t : SlotTable α) (f : Level → Nat → Option α) (d : α) (l : Level) (k : Nat)
    (hl : 4 ≤ l.toNat) (hk : k < 32) : (t.update f).entry d l k = (f l k).getD (t.entry d l k) := by
  have h1 : l.toNat - 4 < 4 := by have := l.isLt; omega
  have h2 : BitVec.ofNat 3 (l.toNat - 4 + 4) = l := by
    apply BitVec.eq_of_toNat_eq
    have := l.isLt
    simp
    omega
  have h3 : ¬ l.toNat < 4 := by omega
  simp [SlotTable.entry, SlotTable.update, h1, h3, hk, h2]

/-- Levels 0 to 3 have no slots (10_state R42). -/
theorem SlotTable.entry_low {α : Type} (t : SlotTable α) (d : α) (l : Level) (k : Nat) (hl : l.toNat < 4) :
    t.entry d l k = d := by simp [SlotTable.entry, hl]

/-- No slot has a number above 31 (00_scope R10). -/
theorem SlotTable.entry_high {α : Type} (t : SlotTable α) (d : α) (l : Level) (k : Nat) (hk : 32 ≤ k) :
    t.entry d l k = d := by
  unfold SlotTable.entry
  split
  · rfl
  · cases h : t[l.toNat - 4]? with
    | none => rfl
    | some row =>
      simp only [Option.bind_some]
      rw [Vector.getElem?_eq_none (by omega)]; rfl

/-- A table filled with one value. -/
@[simp] theorem SlotTable.entry_replicate {α : Type} (d : α) (l : Level) (k : Nat) :
    SlotTable.entry (Vector.replicate 4 (Vector.replicate 32 d)) d l k = d := by
  unfold SlotTable.entry
  split
  · rfl
  · rename_i hl
    have h1 : l.toNat - 4 < 4 := by have := l.isLt; omega
    rw [Vector.getElem?_eq_getElem h1]
    by_cases hk : k < 32 <;> simp [hk]

/-! ### Registration and removal -/

/-- The owner of a slot after a registration (43_bus R330). -/
theorem ownerAt_register (s : State) (l : Level) (n k base limit : Nat) (dev : DevId) (vbase : Word) (l' : Level)
    (j : Nat) (hl : 4 ≤ l'.toNat) (hj : j < 32) :
    (s.register l n k base limit dev vbase).ownerAt l' j =
      if l' = l ∧ k ≤ j ∧ j < k + n then some dev else s.ownerAt l' j := by
  simp only [State.ownerAt, State.register, SlotTable.entry_update _ _ _ _ _ hl hj]
  split <;> rfl

/-- The vector of a slot after a registration (43_bus R330). -/
theorem vecAt_register (s : State) (l : Level) (n k base limit : Nat) (dev : DevId) (vbase : Word) (l' : Level)
    (j : Nat) (hl : 4 ≤ l'.toNat) (hj : j < 32) :
    (s.register l n k base limit dev vbase).vecAt l' j =
      if l' = l ∧ k ≤ j ∧ j < k + n then vbase + BitVec.ofNat 16 (4 * (j - k)) else s.vecAt l' j := by
  simp only [State.vecAt, State.register, SlotTable.entry_update _ _ _ _ _ hl hj]
  split <;> rfl

@[simp] theorem ownerAt_low (s : State) (l : Level) (k : Nat) (hl : l.toNat < 4) : s.ownerAt l k = none :=
  SlotTable.entry_low _ _ l k hl

@[simp] theorem vecAt_low (s : State) (l : Level) (k : Nat) (hl : l.toNat < 4) : s.vecAt l k = 0#16 :=
  SlotTable.entry_low _ _ l k hl

/-- The owner of a slot after a removal (43_bus R334). -/
theorem ownerAt_unregister (s : State) (dev : DevId) (l : Level) (k : Nat) (hk : k < 32) :
    (s.unregister dev).ownerAt l k = if s.slotHeldBy dev l k = true then none else s.ownerAt l k := by
  by_cases hl : 4 ≤ l.toNat
  · simp only [State.ownerAt, State.unregister, SlotTable.entry_update _ _ _ _ _ hl hk]
    split <;> rfl
  · rw [ownerAt_low _ _ _ (by omega), ownerAt_low _ _ _ (by omega), ite_self]

/-- The vector of a slot after a removal (43_bus R334). -/
theorem vecAt_unregister (s : State) (dev : DevId) (l : Level) (k : Nat) (hk : k < 32) :
    (s.unregister dev).vecAt l k = if s.slotHeldBy dev l k = true then 0#16 else s.vecAt l k := by
  by_cases hl : 4 ≤ l.toNat
  · simp only [State.vecAt, State.unregister, SlotTable.entry_update _ _ _ _ _ hl hk]
    split <;> rfl
  · rw [vecAt_low _ _ _ (by omega), vecAt_low _ _ _ (by omega), ite_self]

/-- The pending bit of a slot after a removal (43_bus R334). -/
theorem pendAt_unregister (s : State) (dev : DevId) (l : Level) (k : Nat) (hk : k < 32) :
    ((s.unregister dev).pendAt l).getLsbD k = ((s.pendAt l).getLsbD k && !s.slotHeldBy dev l k) := by
  simp [State.pendAt, State.unregister, hk]

theorem slotHeldBy_iff (s : State) (dev : DevId) (l : Level) (k : Nat) :
    s.slotHeldBy dev l k = true ↔ k < s.cfg.nslots ∧ s.ownerAt l k = some dev := by
  simp [State.slotHeldBy]

theorem ownsSlot_iff (s : State) (dev : DevId) (l : Level) (k : BitVec 5) :
    s.ownsSlot dev l k = true ↔
      4 ≤ l.toNat ∧ k.toNat < s.cfg.nslots ∧ dev ≠ BLOCK ∧ s.ownerAt l k.toNat = some dev := by
  simp [State.ownsSlot, and_assoc]

theorem overlaps_iff (base limit : Nat) (w : Window) :
    overlaps base limit w = true ↔ base < w.limit ∧ w.base < limit := by
  unfold overlaps
  rw [Bool.and_eq_true]
  exact ⟨fun h => ⟨of_decide_eq_true h.1, of_decide_eq_true h.2⟩, fun h => ⟨decide_eq_true h.1, decide_eq_true h.2⟩⟩

/-! ### The lowest run of free slots -/

/-- The lowest run of free slots at a level (43_bus R332). -/
theorem freeRun_eq_some (s : State) (l : Level) (n k : Nat) :
    s.freeRun l n = some k ↔
      (k + n ≤ slotCapacity s.cfg l ∧ ∀ i < n, s.ownerAt l (k + i) = none) ∧
      ∀ j < k, ¬ (j + n ≤ slotCapacity s.cfg l ∧ ∀ i < n, s.ownerAt l (j + i) = none) := by
  unfold State.freeRun
  rw [List.find?_range_eq_some]
  simp only [Bool.and_eq_true, decide_eq_true_eq, List.all_eq_true, List.mem_range, Bool.not_eq_true']
  constructor
  · rintro ⟨h1, h2, h3⟩
    refine ⟨h1, fun j hj hc => ?_⟩
    have := h3 j hj
    rw [Bool.eq_false_iff] at this
    exact this (by simpa using hc)
  · rintro ⟨h1, h2⟩
    refine ⟨h1, by omega, fun j hj => ?_⟩
    rw [Bool.eq_false_iff]
    intro hc
    exact h2 j hj (by simpa using hc)

theorem freeRun_eq_none (s : State) (l : Level) (n : Nat) :
    s.freeRun l n = none ↔ ∀ k, k + n ≤ slotCapacity s.cfg l → ∃ i < n, s.ownerAt l (k + i) ≠ none := by
  unfold State.freeRun
  rw [List.find?_eq_none]
  simp only [Bool.and_eq_true, decide_eq_true_eq, List.all_eq_true, List.mem_range, not_and, not_forall]
  constructor
  · intro h k hk
    obtain ⟨i, hi, hne⟩ := h k (by omega) hk
    exact ⟨i, hi, hne⟩
  · intro h k _ hk
    obtain ⟨i, hi, hne⟩ := h k hk
    exact ⟨i, hi, hne⟩

end Sys2Proof.Machine
end

