-- ==== Sys2Proof/Laws/PageTable.lean ====
section
/-! SUPPORT. Translation (40_pagetable): slots, addresses, and everything a translation can do. -/

namespace Sys2Proof.Machine

/-! ### Slots -/

theorem modeNumber_code (m : Mode) : m.code.toNat = modeNumber m := by cases m <;> rfl

theorem spaceNumber_code (sp : Space) : sp.code.toNat = spaceNumber sp := by cases sp <;> rfl

theorem modeNumber_le (m : Mode) : modeNumber m ≤ 3 := by cases m <;> decide

theorem spaceNumber_le (sp : Space) : spaceNumber sp ≤ 1 := by cases sp <;> decide

/-- A slot number written from its parts. -/
theorem toNat_slot (m : Mode) (sp : Space) (p : BitVec 3) :
    (m.code ++ sp.code ++ p : BitVec 6).toNat = 16 * modeNumber m + 8 * spaceNumber sp + p.toNat := by
  revert p; cases m <;> cases sp <;> decide

theorem isSlot_slotOf (m : Mode) (sp : Space) (va : Word) : IsSlot (slotOf m sp va) m sp va := by
  unfold IsSlot slotOf
  rw [toNat_slot, BitVec.extractLsb'_toNat, Nat.shiftRight_eq_div_pow, Nat.mod_eq_of_lt]
  have := va.isLt
  omega

/-- The descriptor slot of an access (10_state R35). -/
theorem isSlot_iff (slot : BitVec 6) (m : Mode) (sp : Space) (va : Word) : IsSlot slot m sp va ↔ slot = slotOf m sp va := by
  constructor
  · intro h
    exact BitVec.eq_of_toNat_eq (h.trans (isSlot_slotOf m sp va).symm)
  · rintro rfl
    exact isSlot_slotOf m sp va

/-! ### Descriptors -/

theorem descAt_setDesc (s : State) (slot slot' : BitVec 6) (d : Desc) :
    (s.setDesc slot d).descAt slot' = if slot' = slot then d else s.descAt slot' := by
  simp only [State.descAt, State.setDesc, Vector.getElem_set]
  by_cases h : slot' = slot
  · simp [h]
  · have : ¬ slot.toNat = slot'.toNat := fun e => h (BitVec.eq_of_toNat_eq e.symm)
    simp [h, this]

/-! ### Addresses -/

/-- The length check of 40_pagetable R204. -/
theorem outOfLength_eq_false (d : Desc) (va : Word) : outOfLength d va = false ↔ InLength d va := by
  have hb : (va.extractLsb' 6 7).toNat = va.toNat / 64 % 128 := by
    rw [BitVec.extractLsb'_toNat, Nat.shiftRight_eq_div_pow]
  unfold outOfLength InLength
  cases d.ed <;> simp [BitVec.lt_def, hb]

theorem outOfLength_eq_true (d : Desc) (va : Word) : outOfLength d va = true ↔ ¬ InLength d va := by
  rw [← outOfLength_eq_false]; simp

theorem widen_eq (c : Config) (va : Word) : widen c va = widenedAddress c.paw va := by
  unfold widen widenedAddress Config.ioPageBase
  have h1 : 2 ^ PhysWidth.legacy18.bits - 8192 = 0x3E000 := by decide
  have h2 : 2 ^ PhysWidth.extended22.bits - 8192 = 0x3FE000 := by decide
  cases c.paw <;> simp only [h1, h2] <;> split <;> split <;> omega

theorem relocate_eq (c : Config) (ext : Bool) (va paf : Word) : relocate c ext va paf = relocatedAddress c.paw ext va paf := by
  have hb : (va.extractLsb' 0 13).toNat = va.toNat % 8192 := by
    rw [BitVec.extractLsb'_toNat, Nat.shiftRight_zero]
  unfold relocate relocatedAddress
  rw [hb, Nat.mul_comm]
  cases c.paw <;> cases ext <;> simp only [PhysWidth.bits]
  · simp
  · simp
  · have : (va.toNat % 8192 + 64 * paf.toNat) % 2 ^ 22 % 2 ^ 18 = (va.toNat % 8192 + 64 * paf.toNat) % 0x40000 := by omega
    simp only [this, and_self, if_true]
    split <;> split <;> omega
  · simp

theorem widenedAddress_lt (paw : PhysWidth) (va : Word) : widenedAddress paw va < 2 ^ paw.bits := by
  unfold widenedAddress
  have := va.isLt
  cases paw <;> simp only [PhysWidth.bits] <;> split <;> omega

theorem relocatedAddress_lt (paw : PhysWidth) (ext : Bool) (va paf : Word) : relocatedAddress paw ext va paf < 2 ^ paw.bits := by
  unfold relocatedAddress
  cases paw <;> cases ext <;> simp only [PhysWidth.bits]
  · omega
  · omega
  · split <;> omega
  · omega

/-- An aligned address stays even through both maps: pages, blocks and the I/O page begin at even addresses. -/
theorem widenedAddress_even (paw : PhysWidth) (va : Word) (h : va.toNat % 2 = 0) : widenedAddress paw va % 2 = 0 := by
  unfold widenedAddress
  cases paw <;> simp only <;> split <;> omega

theorem relocatedAddress_even (paw : PhysWidth) (ext : Bool) (va paf : Word) (h : va.toNat % 2 = 0) :
    relocatedAddress paw ext va paf % 2 = 0 := by
  unfold relocatedAddress
  cases paw <;> cases ext <;> simp only
  · omega
  · omega
  · split <;> omega
  · omega

theorem even_of_bit0 (v : Word) : v.getLsbD 0 = false ↔ v.toNat % 2 = 0 := by
  rw [← Bool.not_eq_true, BitVec.getLsbD, Nat.testBit_zero]; simp

theorem Maps_lt {s : State} {slot : BitVec 6} {k : Kind} {va : Word} {pa : Nat} (h : s.Maps slot k va pa) :
    pa < 2 ^ s.cfg.paw.bits := by
  rcases h with ⟨_, rfl⟩ | ⟨_, _, _, _, rfl⟩
  · exact widenedAddress_lt _ _
  · exact relocatedAddress_lt _ _ _ _

theorem Maps_even {s : State} {slot : BitVec 6} {k : Kind} {va : Word} {pa : Nat} (h : s.Maps slot k va pa)
    (hv : va.getLsbD 0 = false) : pa % 2 = 0 := by
  rw [even_of_bit0] at hv
  rcases h with ⟨_, rfl⟩ | ⟨_, _, _, _, rfl⟩
  · exact widenedAddress_even _ _ hv
  · exact relocatedAddress_even _ _ _ _ hv

/-! ### Latch -/

/-- The record after Latch (40_pagetable R210). -/
def latchedRecord (s : State) (reason : FaultReason) (slot : BitVec 6) (pc : Word) : FaultRecord :=
  if s.fr.reason = .none then ⟨reason, slot, pc⟩ else s.fr

/-- Latch writes the record alone. -/
theorem latch_eq (s : State) (reason : FaultReason) (slot : BitVec 6) (pc : Word) :
    s.latch reason slot pc = { s with fr := latchedRecord s reason slot pc } := by
  unfold State.latch latchedRecord
  split <;> rfl

/-! ### Everything a translation can do (40_pagetable R200) -/

/-- A translation whose alignment check passes. -/
abbrev AlignedFor (s : State) (width : Width) (va : Word) : Prop :=
  width = .word → s.cfg.enforceOdd = true → va.getLsbD 0 = false

/-- The cases of a translation. -/
inductive TransCase (s : State) (m : Mode) (sp : Space) (k : Kind) (w : Width) (va pc : Word) :
    State × Except TransFault Nat → Prop
  | odd (hw : w = .word) (hv : va.getLsbD 0 = true) (he : s.cfg.enforceOdd = true) :
      TransCase s m sp k w va pc (s, .error .odd)
  | disabled (ha : AlignedFor s w va) (h : s.enable = false) :
      TransCase s m sp k w va pc (s, .ok (widenedAddress s.cfg.paw va))
  | nonResident (ha : AlignedFor s w va) (h : s.enable = true) (hr : (s.descAt (slotOf m sp va)).r = false) :
      TransCase s m sp k w va pc (s.latch .nonResident (slotOf m sp va) pc, .error .nonResident)
  | pageLength (ha : AlignedFor s w va) (h : s.enable = true) (hr : (s.descAt (slotOf m sp va)).r = true)
      (hl : ¬ InLength (s.descAt (slotOf m sp va)) va) :
      TransCase s m sp k w va pc (s.latch .pageLength (slotOf m sp va) pc, .error .pageLength)
  | readOnly (ha : AlignedFor s w va) (h : s.enable = true) (hr : (s.descAt (slotOf m sp va)).r = true)
      (hl : InLength (s.descAt (slotOf m sp va)) va) (hk : k = .write) (hw : (s.descAt (slotOf m sp va)).w = false) :
      TransCase s m sp k w va pc (s.latch .readOnly (slotOf m sp va) pc, .error .readOnly)
  | mapped (ha : AlignedFor s w va) (h : s.enable = true) (hr : (s.descAt (slotOf m sp va)).r = true)
      (hl : InLength (s.descAt (slotOf m sp va)) va) (hw : k = .write → (s.descAt (slotOf m sp va)).w = true) :
      TransCase s m sp k w va pc
        (if k = .write then s.setDesc (slotOf m sp va) { s.descAt (slotOf m sp va) with wr := true } else s,
         .ok (relocatedAddress s.cfg.paw s.ext va (s.descAt (slotOf m sp va)).paf))

theorem translate_cases (s : State) (m : Mode) (sp : Space) (k : Kind) (w : Width) (va pc : Word) :
    TransCase s m sp k w va pc (translate s m sp k w va pc) := by
  unfold translate
  split
  · rename_i h; exact .odd h.1 h.2.1 h.2.2
  · rename_i hodd
    have ha : AlignedFor s w va := fun hw he => by
      cases hv : va.getLsbD 0
      · rfl
      · exact absurd ⟨hw, hv, he⟩ hodd
    split
    · rename_i h; rw [widen_eq]; exact .disabled ha h
    · rename_i h
      have h' : s.enable = true := by simpa using h
      simp only
      split
      · rename_i hr; exact .nonResident ha h' hr
      · rename_i hr
        have hr' : (s.descAt (slotOf m sp va)).r = true := by simpa using hr
        split
        · rename_i hl; exact .pageLength ha h' hr' ((outOfLength_eq_true _ _).1 hl)
        · rename_i hl
          have hl' := (outOfLength_eq_false _ _).1 (by simpa using hl)
          split
          · rename_i hw; exact .readOnly ha h' hr' hl' hw.1 hw.2
          · rename_i hw
            rw [relocate_eq]
            exact .mapped ha h' hr' hl' (fun hk => by
              cases hx : (s.descAt (slotOf m sp va)).w
              · exact absurd ⟨hk, hx⟩ hw
              · rfl)

/-- The state and result of a translation that passes every check. -/
theorem translate_of_maps {s : State} {m : Mode} {sp : Space} {k : Kind} {w : Width} {va pc : Word} {slot : BitVec 6}
    {pa : Nat} (ha : AlignedFor s w va) (hs : IsSlot slot m sp va) (h : s.Maps slot k va pa) :
    translate s m sp k w va pc = ({ s with desc := if k = .write then s.written slot else s.desc }, .ok pa) := by
  rw [isSlot_iff] at hs
  subst hs
  have hc := translate_cases s m sp k w va pc
  revert hc
  generalize translate s m sp k w va pc = r
  intro hc
  rcases h with ⟨he, rfl⟩ | ⟨he, hr, hl, hw, rfl⟩
  · have hd : s.written (slotOf m sp va) = s.desc := if_neg (by simp [he])
    cases hc
    case disabled => rw [hd, ite_self]
    all_goals simp_all
  · have hd : s.written (slotOf m sp va) =
        s.desc.set (slotOf m sp va).toNat { s.descAt (slotOf m sp va) with wr := true } (slotOf m sp va).isLt := if_pos he
    cases hc
    case mapped => rw [hd]; cases k <;> rfl
    all_goals simp_all

/-- A translation changes the fault record and the dirty bits alone. -/
theorem translate_frame (s : State) (m : Mode) (sp : Space) (k : Kind) (w : Width) (va pc : Word) :
    (translate s m sp k w va pc).1 =
      { s with desc := (translate s m sp k w va pc).1.desc, fr := (translate s m sp k w va pc).1.fr } := by
  have hc := translate_cases s m sp k w va pc
  revert hc
  generalize translate s m sp k w va pc = r
  intro hc
  cases hc <;> simp only [latch_eq]
  split <;> rfl

end Sys2Proof.Machine
end

