-- ==== Sys2Proof/Laws/Trap.lean ====
section
/-! SUPPORT. Taking a trap (41_trapunit R249 to R252): named slots, the accesses of DISPATCH, everything a trap entry can do, the new status word. -/

namespace Sys2Proof.Machine

/-! ### Named trap slots -/

/-- A table in which a name occurs once has one slot of that name (00_scope R12). -/
theorem trapSlot_of_isTrapSlot {c : Config} {n : TrapName} {k : Fin 15} (h1 : c.nameCount n = 1) (hk : IsTrapSlot c n k) :
    trapSlot c n = some k := by
  have hex : (trapSlot c n).isSome = true := by
    unfold trapSlot
    rw [List.find?_isSome]
    exact ⟨k, List.mem_finRange k, decide_eq_true hk⟩
  obtain ⟨j, hj⟩ := Option.isSome_iff_exists.1 hex
  have hjn : c.trapTable[j].name = n := by simpa using List.find?_some hj
  rw [hj]
  congr 1
  by_contra hne
  have hv : j.val ≠ k.val := fun e => hne (Fin.ext e)
  have key : ∀ (a b : Nat) (ha : a < 15) (hb : b < 15), a < b → c.trapTable[a].name = n → c.trapTable[b].name = n → False := by
    intro a b ha hb hab h2 h3
    have hlen : (c.trapTable.toList.map TrapEntry.name).length = 15 := by simp
    have hdup : List.Duplicate n (c.trapTable.toList.map TrapEntry.name) := by
      rw [List.duplicate_iff_exists_distinct_get]
      exact ⟨⟨a, by omega⟩, ⟨b, by omega⟩, by simpa using hab, by simpa using h2.symm, by simpa using h3.symm⟩
    rw [List.duplicate_iff_two_le_count] at hdup
    unfold Config.nameCount at h1
    omega
  rcases Nat.lt_or_gt_of_ne hv with h | h
  · exact key _ _ _ _ h hjn hk
  · exact key _ _ _ _ h hk hjn

/-! ### The accesses of DISPATCH (41_trapunit R249) -/

theorem kRead_of_kernelWord {s : State} {pc va : Word} {pa : Nat} (h : s.KernelWord .read va pa) :
    kRead s pc va = .ok s (s.mem.read (pa + 1) ++ s.mem.read pa) := by
  obtain ⟨h0, hm, slot, hs, hmap⟩ := h
  unfold kRead
  rw [translate_of_maps (fun _ _ => h0) hs hmap]
  simp only [reduceCtorEq, if_false]
  rw [route_aligned _ _ _ _ _ (fun _ => Maps_even hmap h0), routeAt_read_memory _ _ _ _ hm]
  rfl

theorem kWrite_of_kernelWord {s : State} {pc va v : Word} {pa : Nat} {slot : BitVec 6}
    (h : s.KernelWord .write va pa) (hslot : IsSlot slot .kernel .data va) :
    kWrite s pc va v = .ok { s with desc := s.written slot, mem := memWrite s.mem pa .word v } 0#16 := by
  obtain ⟨h0, hm, slot', hs, hmap⟩ := h
  have : slot' = slot := ((isSlot_iff _ _ _ _).1 hs).trans ((isSlot_iff _ _ _ _).1 hslot).symm
  subst this
  unfold kWrite
  rw [translate_of_maps (fun _ _ => h0) hs hmap]
  simp only [if_true]
  rw [route_aligned _ _ _ _ _ (fun _ => Maps_even hmap h0), routeAt_write_memory _ _ _ _ (by exact hm)]

/-- A property of the state in which an access of DISPATCH ends, however it ends. -/
inductive KernelAccess.All (P : State → Prop) : KernelAccess → Prop
  | ok {s : State} {v : Word} (h : P s) : KernelAccess.All P (.ok s v)
  | stop {s : State} (h : P s) : KernelAccess.All P (.stop s)
  | refused {s : State} {why : RefuseReason} (h : P s) : KernelAccess.All P (.refused s why)

theorem KernelAccess.All.all_ok {P : State → Prop} {s : State} {v : Word} (h : KernelAccess.All P (.ok s v)) : P s := by
  cases h; assumption

theorem KernelAccess.All.all_stop {P : State → Prop} {s : State} (h : KernelAccess.All P (.stop s)) : P s := by
  cases h; assumption

theorem KernelAccess.All.all_refused {P : State → Prop} {s : State} {why : RefuseReason}
    (h : KernelAccess.All P (.refused s why)) : P s := by
  cases h; assumption

/-- A property of the state in which a physical access ends, however it ends. -/
inductive Routed.All (P : State → Prop) : Routed → Prop
  | ok {s : State} {v : Word} (h : P s) : Routed.All P (.ok s v)
  | nxm {s : State} (h : P s) : Routed.All P (.nxm s)
  | refused {s : State} {why : RefuseReason} (h : P s) : Routed.All P (.refused s why)

/-- What translations and routes keep, the reads of DISPATCH keep. -/
theorem kRead_all {P : State → Prop} (ht : ∀ s m sp k w va pc, P s → P (translate s m sp k w va pc).1)
    (hr : ∀ s k x pa d, P s → (route s k x pa d).All P) (s : State) (pc va : Word) (h : P s) : (kRead s pc va).All P := by
  unfold kRead
  have h1 := ht s .kernel .data .read .word va pc h
  revert h1
  generalize translate s .kernel .data .read .word va pc = r
  obtain ⟨s1, e | pa⟩ := r
  · exact fun h1 => .stop h1
  · intro h1
    have h2 := hr s1 .read .word pa 0#16 h1
    simp only
    revert h2
    generalize route s1 .read .word pa 0#16 = q
    intro h2
    cases h2 with
    | ok h => exact .ok h
    | nxm h => exact .stop h
    | refused h => exact .refused h

/-- What translations and routes keep, the writes of DISPATCH keep. -/
theorem kWrite_all {P : State → Prop} (ht : ∀ s m sp k w va pc, P s → P (translate s m sp k w va pc).1)
    (hr : ∀ s k x pa d, P s → (route s k x pa d).All P) (s : State) (pc va v : Word) (h : P s) :
    (kWrite s pc va v).All P := by
  unfold kWrite
  have h1 := ht s .kernel .data .write .word va pc h
  revert h1
  generalize translate s .kernel .data .write .word va pc = r
  obtain ⟨s1, e | pa⟩ := r
  · exact fun h1 => .stop h1
  · intro h1
    have h2 := hr s1 .write .word pa v h1
    simp only
    revert h2
    generalize route s1 .write .word pa v = q
    intro h2
    cases h2 with
    | ok h => exact .ok h
    | nxm h => exact .stop h
    | refused h => exact .refused h

/-- Everything a trap entry can do (41_trapunit R250, R251): it completes, stops, or is refused, and what translations and
routes keep holds of the state before the re-evaluation, or of the state it ends in. -/
theorem enterTrap_cases {P : State → Prop} (ht : ∀ s m sp k w va pc, P s → P (translate s m sp k w va pc).1)
    (hr : ∀ s k x pa d, P s → (route s k x pa d).All P) (s : State) (V pc psw ksp : Word) (h : P s) :
    (∃ t newpc newps, P t ∧ s.enterTrap V pc psw ksp = .answer (t.reevaluate (pswIpl (newPsw psw newps)))
      (Answer.results .ok (result16 newpc) (result16 (newPsw psw newps)) (result16 (ksp - 4#16)) (result16 V))) ∨
    (∃ t, P t ∧ s.enterTrap V pc psw ksp = .stop t) ∨
    (∃ t why, P t ∧ s.enterTrap V pc psw ksp = .refuse t why) := by
  unfold State.enterTrap
  have h1 := kRead_all ht hr s pc V h
  revert h1
  generalize kRead s pc V = k1
  cases k1 with
  | stop t => exact fun h => .inr (.inl ⟨t, h.all_stop, rfl⟩)
  | refused t why => exact fun h => .inr (.inr ⟨t, why, h.all_refused, rfl⟩)
  | ok s1 newpc =>
  intro h1
  replace h1 := h1.all_ok
  simp only [KernelAccess.andThen]
  have h2 := kRead_all ht hr s1 pc (V + 2#16) h1
  revert h2
  generalize kRead s1 pc (V + 2#16) = k2
  cases k2 with
  | stop t => exact fun h => .inr (.inl ⟨t, h.all_stop, rfl⟩)
  | refused t why => exact fun h => .inr (.inr ⟨t, why, h.all_refused, rfl⟩)
  | ok s2 newps =>
  intro h2
  replace h2 := h2.all_ok
  simp only
  have h3 := kWrite_all ht hr s2 pc (ksp - 2#16) psw h2
  revert h3
  generalize kWrite s2 pc (ksp - 2#16) psw = k3
  cases k3 with
  | stop t => exact fun h => .inr (.inl ⟨t, h.all_stop, rfl⟩)
  | refused t why => exact fun h => .inr (.inr ⟨t, why, h.all_refused, rfl⟩)
  | ok s3 x =>
  intro h3
  replace h3 := h3.all_ok
  simp only
  have h4 := kWrite_all ht hr s3 pc (ksp - 4#16) pc h3
  revert h4
  generalize kWrite s3 pc (ksp - 4#16) pc = k4
  cases k4 with
  | stop t => exact fun h => .inr (.inl ⟨t, h.all_stop, rfl⟩)
  | refused t why => exact fun h => .inr (.inr ⟨t, why, h.all_refused, rfl⟩)
  | ok s4 y => exact fun h => .inl ⟨s4, newpc, newps, h.all_ok, rfl⟩

/-! ### The new status word (41_trapunit R251) -/

theorem getLsbD_newPsw (old st : Word) (i : Nat) :
    (newPsw old st).getLsbD i =
      if i < 12 then st.getLsbD i else if i < 14 then old.getLsbD (14 + (i - 12)) else false := by
  have h1 : (newPsw old st).getLsbD i =
      if i < 12 then (st.extractLsb' 0 12).getLsbD i
      else (0#2 ++ pswCurrentMode old : BitVec (2 + 2)).getLsbD (i - 12) := BitVec.getLsbD_append
  rw [h1, BitVec.getLsbD_append]
  by_cases h : i < 12
  · simp [h]
  · by_cases h' : i < 14
    · have : i - 12 < 2 := by omega
      simp [h, h', this, pswCurrentMode]
    · have : ¬ i - 12 < 2 := by omega
      simp [h, h', this]

theorem newPsw_mode (old st : Word) : (newPsw old st).extractLsb' 14 2 = 0#2 := by
  apply BitVec.eq_of_getLsbD_eq
  intro i hi
  rw [BitVec.getLsbD_extractLsb', getLsbD_newPsw, if_neg (by omega), if_neg (by omega)]
  simp

theorem newPsw_previous (old st : Word) : (newPsw old st).extractLsb' 12 2 = old.extractLsb' 14 2 := by
  apply BitVec.eq_of_getLsbD_eq
  intro i hi
  rw [BitVec.getLsbD_extractLsb', BitVec.getLsbD_extractLsb', getLsbD_newPsw, if_neg (by omega), if_pos (by omega),
    Nat.add_sub_cancel_left]

theorem newPsw_low (old st : Word) : (newPsw old st).extractLsb' 0 12 = st.extractLsb' 0 12 := by
  apply BitVec.eq_of_getLsbD_eq
  intro i hi
  rw [BitVec.getLsbD_extractLsb', BitVec.getLsbD_extractLsb', getLsbD_newPsw, if_pos (by omega)]

theorem newPsw_ipl (old st : Word) : pswIpl (newPsw old st) = st.extractLsb' 5 3 := by
  apply BitVec.eq_of_getLsbD_eq
  intro i hi
  rw [pswIpl, BitVec.getLsbD_extractLsb', BitVec.getLsbD_extractLsb', getLsbD_newPsw, if_pos (by omega)]

end Sys2Proof.Machine
end

