-- ==== Sys2Proof/Laws/Exec.lean ====
section
/-! SUPPORT. Everything a command can do to the state (30_encoding R123): a property that its updates keep holds where it ends. -/

namespace Sys2Proof.Machine

/-! ### Which accesses a command makes -/

/-- The command makes translations of a kind (40_pagetable R200, 43_bus R326, 41_trapunit R249). -/
def Translates : Instr → Kind → Prop
  | .translate _ _ k' _, k => k' = k
  | .access _ _ k' _, k => k' = k
  | .dispatch, _ => True
  | _, _ => False

/-- The command makes physical accesses of a kind (43_bus R320, R326; 41_trapunit R249). -/
def Routes : Instr → Kind → Prop
  | .route k' _, k => k' = k
  | .access _ _ k' _, k => k' = k
  | .dispatch, _ => True
  | _, _ => False

/-- A property that the accesses of a command keep. -/
structure AccessClosed (i : Instr) (P : State → Prop) : Prop where
  latch : ∀ u reason slot pc, reason ≠ .none → (∃ k, Translates i k) → P u → P (u.latch reason slot pc)
  dirty : ∀ u slot, Translates i .write → (u.descAt slot).w = true → P u →
    P (u.setDesc slot { u.descAt slot with wr := true })
  memory : ∀ u pa w d, Routes i .write → pa < u.cfg.memSize → (w = .word → pa % 2 = 0) → P u →
    P { u with mem := memWrite u.mem pa w d }
  register : ∀ u r v, Routes i .write → (∃ off, regAt off = some r) → P u → P (u.regWrite r v)
  device : ∀ u call, (∃ k, Routes i k) → P u → P (afterDeviceCall u call)

/-- A register that an access reaches has an offset (10_state R48 to R55). -/
theorem regAccess_all {P : State → Prop} (s : State) (k : Kind) (x : Width) (off : Nat) (d : Word) (h : P s)
    (hr : k = .write → ∀ r v, (∃ off, regAt off = some r) → P (s.regWrite r v)) : (s.regAccess k x off d).All P := by
  unfold State.regAccess
  cases hreg : regAt (off - off % 2) with
  | none => exact .nxm h
  | some r =>
    cases k <;> cases x
    · exact .ok h
    · exact .ok h
    · exact .ok (hr rfl r _ ⟨_, hreg⟩)
    · exact .ok (hr rfl r _ ⟨_, hreg⟩)

theorem translate_closed {i : Instr} {P : State → Prop} (hc : AccessClosed i P) (s : State) (m : Mode) (sp : Space)
    (k : Kind) (w : Width) (va pc : Word) (hk : Translates i k) (h : P s) : P (translate s m sp k w va pc).1 := by
  have hcase := translate_cases s m sp k w va pc
  revert hcase
  generalize translate s m sp k w va pc = r
  intro hcase
  cases hcase with
  | odd => exact h
  | disabled => exact h
  | nonResident => exact hc.latch _ _ _ _ (by decide) ⟨k, hk⟩ h
  | pageLength => exact hc.latch _ _ _ _ (by decide) ⟨k, hk⟩ h
  | readOnly => exact hc.latch _ _ _ _ (by decide) ⟨k, hk⟩ h
  | mapped _ _ _ _ hw =>
    split
    · rename_i hkw
      subst hkw
      exact hc.dirty _ _ hk (hw rfl) h
    · exact h

theorem route_closed {i : Instr} {P : State → Prop} (hc : AccessClosed i P) (s : State) (k : Kind) (x : Width) (pa : Nat)
    (d : Word) (hk : Routes i k) (h : P s) : (route s k x pa d).All P := by
  have hat : ∀ pa, (x = .word → pa % 2 = 0) → (s.routeAt k x pa d).All P := by
    intro pa ha
    by_cases hm : pa < s.cfg.memSize
    · cases k
      · rw [routeAt_read_memory _ _ _ _ hm]; exact .ok h
      · rw [routeAt_write_memory _ _ _ _ hm]; exact .ok (hc.memory s pa x d hk hm ha h)
    · unfold State.routeAt
      rw [if_neg hm]
      split
      · split
        · exact .nxm h
        · rename_i w _
          split
          · refine regAccess_all s k x _ d h ?_
            rintro rfl r v hr
            exact hc.register s r v hk hr h
          · obtain ⟨call, e | ⟨v, e⟩⟩ := deviceAccess_cases s w.dev k x (pa - w.base) d <;> rw [e]
            · exact .nxm (hc.device s call ⟨k, hk⟩ h)
            · exact .ok (hc.device s call ⟨k, hk⟩ h)
      · exact .nxm h
  unfold route
  split
  · split
    · exact .refused h
    · exact hat _ (fun _ => by omega)
  · rename_i hn
    exact hat pa (fun hx => by
      rcases Nat.mod_two_eq_zero_or_one pa with h0 | h1
      · exact h0
      · exact absurd ⟨hx, h1⟩ hn)

/-! ### How a command ends -/

/-- A property that the updates of a command other than DISPATCH keep. -/
structure CommandClosed (i : Instr) (P : State → Prop) : Prop extends AccessClosed i P where
  posted : ∀ u k, k < 15 → ((∃ t, i = .trapPost t) ∨ ∃ m sp k x, i = .access m sp k x) → P u → P (u.postTrap k)
  requested : ∀ u dev l k, i = .intRequest l k → u.ownsSlot dev l k = true → P u →
    P ((u.setPend l (setBit (u.pendAt l) k.toNat)).reevaluate u.iplShadow)
  dropped : ∀ u l k, ((∃ j, i = .intCancel l j) ∨ ∃ p, i = .intAck p) → P u →
    P ((u.setPend l (clearBit (u.pendAt l) k)).reevaluate u.iplShadow)
  reevaluated : ∀ u p, (i = .intReevaluate p ∨ ((∃ q, i = .intAck q) ∧ p = u.iplShadow)) → P u → P (u.reevaluate p)
  registered : ∀ u l n k base limit dev vbase, i = .devRegister l n → dev ≠ BLOCK → base < limit →
    limit ≤ u.cfg.physTop → u.windows.any (overlaps base limit) = false → u.firstSlot l n.toNat = some k → P u →
    P (u.register l n.toNat k base limit dev vbase)
  failed : ∀ u, (∃ l n, i = .devRegister l n) → P u → P { u with configError := true }
  unregistered : ∀ u dev, i = .devUnregister → dev ≠ BLOCK → P u → P ((u.unregister dev).reevaluate u.iplShadow)
  wasReset : ∀ u, i = .reset → P u → P u.systemReset

theorem postNamed_closed {i : Instr} {P : State → Prop} (hc : CommandClosed i P)
    (hi : (∃ t, i = .trapPost t) ∨ ∃ m sp k x, i = .access m sp k x) (u : State) (n : TrapName) (h : P u) :
    P (u.postNamed n) := by
  unfold State.postNamed
  split
  · rename_i k _; exact hc.posted u k.val k.isLt hi h
  · exact h

/-- Everything a command other than DISPATCH can do to the state. It never stops the block. -/
theorem exec_endsIn {i : Instr} {P : State → Prop} (hc : CommandClosed i P) (hi : i ≠ .dispatch) {s t : State} (h : P s)
    (he : exec i s = .next t) :
    (∃ u a, P u ∧ t = { u with answer := some a }) ∨
    (∃ c d why, t = { s with refused := true, devCalls := c, draws := d, answer := some (Answer.refusal why) }) := by
  cases i with
  | translate m sp k w =>
    have h1 := translate_closed hc.toAccessClosed s m sp k w s.opA16 s.opB16 rfl h
    simp only [exec, execTranslate] at he
    revert he h1
    generalize translate s m sp k w s.opA16 s.opB16 = r
    obtain ⟨s1, e | pa⟩ := r <;> intro he h1 <;> simp only [finish_answer, Host.Outcome.next.injEq] at he <;>
      exact .inl ⟨s1, _, h1, he.symm⟩
  | route k x =>
    simp only [exec, execRoute] at he
    split at he
    · simp only [finish_refuse, Host.Outcome.next.injEq] at he; exact .inr ⟨_, _, _, he.symm⟩
    · have h2 := route_closed hc.toAccessClosed s k x s.opAAddr s.opB16 rfl h
      revert he h2
      generalize route s k x s.opAAddr s.opB16 = q
      intro he h2
      cases h2 with
      | ok h2 => simp only [finish_answer, Host.Outcome.next.injEq] at he; exact .inl ⟨_, _, h2, he.symm⟩
      | nxm h2 => simp only [finish_answer, Host.Outcome.next.injEq] at he; exact .inl ⟨_, _, h2, he.symm⟩
      | refused _ => simp only [finish_refuse, Host.Outcome.next.injEq] at he; exact .inr ⟨_, _, _, he.symm⟩
  | access m sp k x =>
    have h1 := translate_closed hc.toAccessClosed s m sp k x s.opA16 s.opC16 rfl h
    have hp : (∃ t, Instr.access m sp k x = .trapPost t) ∨ ∃ m' sp' k' x', Instr.access m sp k x = .access m' sp' k' x' :=
      .inr ⟨_, _, _, _, rfl⟩
    simp only [exec, execAccess] at he
    revert he h1
    generalize translate s m sp k x s.opA16 s.opC16 = r
    obtain ⟨s1, e | pa⟩ := r <;> intro he h1
    · simp only [finish_answer, Host.Outcome.next.injEq] at he
      exact .inl ⟨_, _, postNamed_closed hc hp s1 _ h1, he.symm⟩
    · have h2 := route_closed hc.toAccessClosed s1 k x pa s.opB16 rfl h1
      simp only at he
      revert he h2
      generalize route s1 k x pa s.opB16 = q
      intro he h2
      cases h2 with
      | ok h2 => simp only [finish_answer, Host.Outcome.next.injEq] at he; exact .inl ⟨_, _, h2, he.symm⟩
      | nxm h2 =>
        simp only [finish_answer, Host.Outcome.next.injEq] at he
        exact .inl ⟨_, _, postNamed_closed hc hp _ _ h2, he.symm⟩
      | refused _ => simp only [finish_refuse, Host.Outcome.next.injEq] at he; exact .inr ⟨_, _, _, he.symm⟩
  | snapshot =>
    simp only [exec, execSnapshot, finish_answer, Host.Outcome.next.injEq] at he
    exact .inl ⟨_, _, h, he.symm⟩
  | trapPost k =>
    simp only [exec, execTrapPost] at he
    split at he
    · simp only [finish_refuse, Host.Outcome.next.injEq] at he; exact .inr ⟨_, _, _, he.symm⟩
    · rename_i hk
      simp only [finish_answer, Host.Outcome.next.injEq] at he
      have : k.toNat < 15 := by
        have := k.isLt
        have : k.toNat ≠ 15 := fun e => hk (BitVec.eq_of_toNat_eq e)
        omega
      exact .inl ⟨_, _, hc.posted s _ this (.inl ⟨k, rfl⟩) h, he.symm⟩
  | trapHighest =>
    simp only [exec, execTrapHighest] at he
    split at he <;> simp only [finish_answer, Host.Outcome.next.injEq] at he <;> exact .inl ⟨_, _, h, he.symm⟩
  | dispatch => exact absurd rfl hi
  | intRequest l k =>
    simp only [exec, execIntRequest] at he
    split at he
    · rename_i ho
      simp only [finish_answer, Host.Outcome.next.injEq] at he
      exact .inl ⟨_, _, hc.requested s _ l k rfl ho h, he.symm⟩
    · simp only [finish_refuse, Host.Outcome.next.injEq] at he; exact .inr ⟨_, _, _, he.symm⟩
  | intCancel l k =>
    simp only [exec, execIntCancel] at he
    split at he
    · simp only [finish_answer, Host.Outcome.next.injEq] at he
      exact .inl ⟨_, _, hc.dropped s l k.toNat (.inl ⟨k, rfl⟩) h, he.symm⟩
    · simp only [finish_refuse, Host.Outcome.next.injEq] at he; exact .inr ⟨_, _, _, he.symm⟩
  | intReevaluate p =>
    simp only [exec, execIntReevaluate, finish_answer, Host.Outcome.next.injEq] at he
    exact .inl ⟨_, _, hc.reevaluated s p (.inl rfl) h, he.symm⟩
  | intAck p =>
    simp only [exec, execIntAck] at he
    rcases acknowledge_cases s p with ⟨l, k, -, -, -, e⟩ | ⟨-, ⟨l, -, -, e⟩ | ⟨-, e⟩⟩ <;> rw [e] at he <;>
      simp only [finish_answer, Host.Outcome.next.injEq] at he
    · exact .inl ⟨_, _, hc.dropped s l k (.inr ⟨p, rfl⟩) h, he.symm⟩
    · exact .inl ⟨_, _, hc.reevaluated s s.iplShadow (.inr ⟨⟨p, rfl⟩, rfl⟩) h, he.symm⟩
    · exact .inl ⟨_, _, hc.reevaluated s s.iplShadow (.inr ⟨⟨p, rfl⟩, rfl⟩) h, he.symm⟩
  | devRegister l n =>
    simp only [exec, execDevRegister] at he
    split at he
    · simp only [finish_refuse, Host.Outcome.next.injEq] at he; exact .inr ⟨_, _, _, he.symm⟩
    rename_i hv
    split at he
    · simp only [finish_answer, Host.Outcome.next.injEq] at he
      exact .inl ⟨_, _, hc.failed s ⟨l, n, rfl⟩ h, he.symm⟩
    rename_i ho
    split at he
    · simp only [finish_answer, Host.Outcome.next.injEq] at he
      exact .inl ⟨_, _, hc.failed s ⟨l, n, rfl⟩ h, he.symm⟩
    · rename_i k hk
      simp only [finish_answer, Host.Outcome.next.injEq] at he
      simp only [not_or, Nat.not_le, Nat.not_lt] at hv
      exact .inl ⟨_, _, hc.registered s l n k _ _ _ _ rfl hv.1 hv.2.1 hv.2.2.1 (by simpa using ho) hk h, he.symm⟩
  | devUnregister =>
    simp only [exec, execDevUnregister] at he
    split at he
    · simp only [finish_refuse, Host.Outcome.next.injEq] at he; exact .inr ⟨_, _, _, he.symm⟩
    · rename_i hd
      simp only [finish_answer, Host.Outcome.next.injEq] at he
      exact .inl ⟨_, _, hc.unregistered s _ rfl hd h, he.symm⟩
  | reset =>
    simp only [exec, execReset, finish_answer, Host.Outcome.next.injEq] at he
    exact .inl ⟨_, _, hc.wasReset s rfl h, he.symm⟩

/-- Everything DISPATCH can do to the state: nothing but for the answer; re-evaluate at the end; refuse; or stop. -/
theorem dispatch_endsIn {P : State → Prop} (hc : AccessClosed .dispatch P)
    (hs : ∀ u (k : Nat), k < 15 → P u → P (u.setTrapmask (clearBit u.trapmask k)))
    (hp : ∀ u l k, P u → P (u.setPend l (clearBit (u.pendAt l) k))) {s t : State} (h : P s)
    (he : exec .dispatch s = .next t) :
    (∃ a, t = { s with answer := some a }) ∨
    (∃ u p a, P u ∧ t = { (u.reevaluate p) with answer := some a }) ∨
    (∃ c d why, t = { s with refused := true, devCalls := c, draws := d, answer := some (Answer.refusal why) }) ∨
    (∃ u, P u ∧ t = { u with stopped := true, answer := some (Answer.bare .doubleFault) }) := by
  have entry : ∀ u V pc psw ksp, P u → finish s (u.enterTrap V pc psw ksp) = .next t →
      (∃ a, t = { s with answer := some a }) ∨
      (∃ u p a, P u ∧ t = { (u.reevaluate p) with answer := some a }) ∨
      (∃ c d why, t = { s with refused := true, devCalls := c, draws := d, answer := some (Answer.refusal why) }) ∨
      (∃ u, P u ∧ t = { u with stopped := true, answer := some (Answer.bare .doubleFault) }) := by
    intro u V pc psw ksp hu hf
    rcases enterTrap_cases (P := P)
      (fun s m sp k w va pc h => translate_closed hc s m sp k w va pc (by trivial) h)
      (fun s k x pa d h => route_closed hc s k x pa d (by trivial) h) u V pc psw ksp hu with
      ⟨u', _, _, hu', e⟩ | ⟨u', hu', e⟩ | ⟨u', why, hu', e⟩ <;> rw [e] at hf
    · simp only [finish_answer, Host.Outcome.next.injEq] at hf; exact .inr (.inl ⟨u', _, _, hu', hf.symm⟩)
    · simp only [finish_stop, Host.Outcome.next.injEq] at hf; exact .inr (.inr (.inr ⟨u', hu', hf.symm⟩))
    · simp only [finish_refuse, Host.Outcome.next.injEq] at hf; exact .inr (.inr (.inl ⟨_, _, _, hf.symm⟩))
  simp only [exec, execDispatch] at he
  split at he
  · simp only [finish_answer, Host.Outcome.next.injEq] at he; exact .inl ⟨_, he.symm⟩
  · rename_i k hk
    split at he
    · rename_i hlt
      refine entry _ _ _ _ _ ?_ he
      unfold clearServiced
      split
      · exact h
      · exact hs s k hlt h
    · rcases acknowledge_cases s (pswIpl s.opB16) with ⟨l, k, -, -, -, e⟩ | ⟨-, ⟨l, -, -, e⟩ | ⟨-, e⟩⟩ <;> rw [e] at he
      · exact entry _ _ _ _ _ (hp s l k h) he
      · exact entry _ _ _ _ _ h he
      · simp only [finish_answer, Host.Outcome.next.injEq] at he; exact .inr (.inl ⟨s, _, _, h, he.symm⟩)

end Sys2Proof.Machine
end

