-- ==== Sys2Proof/Laws/Memory.lean ====
section
/-! SUPPORT. Memory: a read after a write, that every operation keeps the canonical form, and the power-on draw. -/

namespace Sys2Proof.Machine

theorem Memory.read_cons (b : Nat) (u : Byte) (m : Memory) (a : Nat) :
    Memory.read ((b, u) :: m) a = if a = b then u else Memory.read m a := rfl

theorem Memory.read_put (m : Memory) (a : Nat) (v : Byte) (c : Nat) :
    (m.put a v).read c = if c = a then v else m.read c := by
  induction m with
  | nil => simp [Memory.put, Memory.read]
  | cons e m ih =>
    obtain ⟨b, u⟩ := e
    simp only [Memory.put]
    split
    · simp [Memory.read_cons]
    · split
      · subst_vars; by_cases h : c = b <;> simp [Memory.read_cons, h]
      · simp only [Memory.read_cons, ih]
        split
        · rw [if_neg (by omega)]
        · rfl

theorem Memory.read_drop (m : Memory) (a c : Nat) :
    (m.drop a).read c = if c = a then unlistedByte else m.read c := by
  induction m with
  | nil => simp [Memory.drop, Memory.read]
  | cons e m ih =>
    obtain ⟨b, u⟩ := e
    simp only [Memory.drop] at ih
    by_cases hb : b = a
    · subst hb
      simp only [Memory.drop, List.filter, ne_eq, not_true, decide_false, ih, Memory.read_cons]
      split <;> rfl
    · simp only [Memory.drop, List.filter, ne_eq, hb, not_false_eq_true, decide_true, Memory.read_cons, ih]
      by_cases hc : c = b
      · subst hc; simp [hb]
      · simp [hc]

/-- A read after a write. -/
@[simp] theorem Memory.read_write (m : Memory) (a : Nat) (v : Byte) (c : Nat) :
    (m.write a v).read c = if c = a then v else m.read c := by
  unfold Memory.write
  split
  · rename_i h; subst h; exact m.read_drop a c
  · exact m.read_put a v c

theorem Memory.mem_put {m : Memory} {a : Nat} {v : Byte} {c : Host.Cell} (h : c ∈ m.put a v) : c = (a, v) ∨ c ∈ m := by
  induction m with
  | nil => simpa [Memory.put] using h
  | cons e m ih =>
    obtain ⟨b, u⟩ := e
    simp only [Memory.put] at h
    split at h
    · simpa using h
    · split at h
      · rcases List.mem_cons.1 h with h | h <;> simp [h]
      · rcases List.mem_cons.1 h with h | h
        · simp [h]
        · rcases ih h with h | h <;> simp [h]

theorem Memory.mem_write {m : Memory} {a : Nat} {v : Byte} {c : Host.Cell} (h : c ∈ m.write a v) :
    c = (a, v) ∨ c ∈ m := by
  unfold Memory.write at h
  split at h
  · exact .inr (List.mem_filter.1 h).1
  · exact Memory.mem_put h

theorem Memory.pairwise_put (m : Memory) (a : Nat) (v : Byte)
    (h : m.Pairwise (fun c e => c.1 < e.1)) : (m.put a v).Pairwise (fun c e => c.1 < e.1) := by
  induction m with
  | nil => simp [Memory.put]
  | cons e m ih =>
    obtain ⟨b, u⟩ := e
    rw [List.pairwise_cons] at h
    obtain ⟨hb, hm⟩ := h
    simp only [Memory.put]
    split
    · rename_i hab
      refine List.pairwise_cons.2 ⟨fun e he => ?_, List.pairwise_cons.2 ⟨hb, hm⟩⟩
      rcases List.mem_cons.1 he with he | he
      · simpa [he] using hab
      · exact Nat.lt_trans hab (hb e he)
    · split
      · rename_i hab; subst hab; exact List.pairwise_cons.2 ⟨hb, hm⟩
      · refine List.pairwise_cons.2 ⟨fun e he => ?_, ih hm⟩
        rcases Memory.mem_put he with he | he
        · subst he; show b < a; omega
        · exact hb e he

/-- A write of one byte keeps the canonical form. -/
theorem Memory.wf_write {m : Memory} (h : m.wf) (a : Nat) (v : Byte) : (m.write a v).wf := by
  refine ⟨?_, fun c hc => ?_⟩
  · unfold Memory.write
    split
    · exact h.1.filter _
    · exact m.pairwise_put a v h.1
  · by_cases hv : v = unlistedByte
    · simp only [Memory.write, hv, if_true] at hc
      exact h.2 c (List.mem_filter.1 hc).1
    · rcases Memory.mem_write hc with hc | hc
      · simpa [hc] using hv
      · exact h.2 c hc

/-- A write of an access keeps the canonical form. -/
theorem memWrite_wf {m : Memory} (h : m.wf) (pa : Nat) (w : Width) (v : Word) : (memWrite m pa w v).wf := by
  cases w
  · exact Memory.wf_write (Memory.wf_write h _ _) _ _
  · exact Memory.wf_write h _ _

/-- A write of an access lists no address but the ones it stores to. -/
theorem mem_memWrite {m : Memory} {pa : Nat} {w : Width} {v : Word} {c : Host.Cell} (h : c ∈ memWrite m pa w v) :
    c.1 = pa ∨ (w = .word ∧ c.1 = pa + 1) ∨ c ∈ m := by
  cases w
  · rcases Memory.mem_write h with h | h
    · simp [h]
    · rcases Memory.mem_write h with h | h <;> simp [h]
  · rcases Memory.mem_write h with h | h <;> simp [h]

@[simp] theorem read_memWrite_byte (m : Memory) (pa : Nat) (v : Word) (a : Nat) :
    (memWrite m pa .byte v).read a = if a = pa then v.extractLsb' 0 8 else m.read a := by
  simp [memWrite]

@[simp] theorem read_memWrite_word (m : Memory) (pa : Nat) (v : Word) (a : Nat) :
    (memWrite m pa .word v).read a =
      if a = pa + 1 then v.extractLsb' 8 8 else if a = pa then v.extractLsb' 0 8 else m.read a := by
  simp [memWrite]

@[simp] theorem memRead_word (m : Memory) (pa : Nat) : memRead m pa .word = m.read (pa + 1) ++ m.read pa := rfl

@[simp] theorem memRead_byte (m : Memory) (pa : Nat) : memRead m pa .byte = (m.read pa).setWidth 16 := rfl

/-! ### The power-on draw (10_state R46) -/

@[simp] theorem Memory.ofDraw_nil (size : Nat) : Memory.ofDraw size [] = [] := rfl

theorem Memory.ofDraw_concat (size : Nat) (d : List Host.Cell) (c : Host.Cell) :
    Memory.ofDraw size (d ++ [c]) =
      if c.1 < size then (Memory.ofDraw size d).write c.1 c.2 else Memory.ofDraw size d := by
  simp [Memory.ofDraw, List.foldl_append]

/-- The memory of every draw is in canonical form. -/
theorem Memory.wf_ofDraw (size : Nat) (d : List Host.Cell) : (Memory.ofDraw size d).wf := by
  induction d using List.reverseRecOn with
  | nil => exact ⟨List.Pairwise.nil, fun _ h => nomatch h⟩
  | append_singleton d c ih =>
    rw [Memory.ofDraw_concat]
    split
    · exact Memory.wf_write ih _ _
    · exact ih

/-- The memory of every draw holds bytes at installed addresses only (20_memory R89). -/
theorem Memory.installed_ofDraw {size : Nat} {d : List Host.Cell} {c : Host.Cell}
    (h : c ∈ Memory.ofDraw size d) : c.1 < size := by
  induction d using List.reverseRecOn with
  | nil => cases h
  | append_singleton d e ih =>
    rw [Memory.ofDraw_concat] at h
    split at h
    · rcases Memory.mem_write h with h | h
      · subst h; assumption
      · exact ih h
    · exact ih h

/-- Nothing is shut out: every memory that a state of the block can hold is the memory of a draw, itself. -/
theorem Memory.ofDraw_eq_self {size : Nat} {m : Memory} (h : m.wf) (hi : ∀ c ∈ m, c.1 < size) :
    Memory.ofDraw size m = m := by
  induction m using List.reverseRecOn with
  | nil => rfl
  | append_singleton m c ih =>
    obtain ⟨hs, hv⟩ := h
    rw [List.pairwise_append] at hs
    have hlast : ∀ e ∈ m, e.1 < c.1 := fun e he => hs.2.2 e he c (List.mem_singleton.2 rfl)
    have hput : ∀ l : Memory, (∀ e ∈ l, e.1 < c.1) → l.put c.1 c.2 = l ++ [c] := by
      intro l hl
      induction l with
      | nil => rfl
      | cons e l il =>
        have he := hl e (List.mem_cons_self ..)
        simp only [Memory.put, if_neg (Nat.lt_asymm he), if_neg (Nat.ne_of_gt he), List.cons_append,
          il fun x hx => hl x (List.mem_cons_of_mem _ hx)]
    rw [Memory.ofDraw_concat, ih ⟨hs.1, fun e he => hv e (List.mem_append_left _ he)⟩
        fun e he => hi e (List.mem_append_left _ he),
      if_pos (hi c (by simp)), Memory.write, if_neg (hv c (by simp)), hput m hlast]

end Sys2Proof.Machine
end

