-- ==== Sys2Proof/Laws/PerInstr.lean ====
section
/-! SUPPORT. Per command: its command word has the OP of a row of the opcode map and zeros in the bits that the row's
format reserves (30_encoding R122, R123, R128). -/

namespace Sys2Proof.Laws.ReservedBitsZero

/-- Some row of the opcode map has the command word's OP, and the word is 0 in the row's reserved bits. -/
def Statement (i : Instr) : Prop :=
  ∃ row ∈ opcodeMap, row.op = opField (encode i) ∧ encode i &&& row.format.reserved = 0#32

theorem translate (mode : Mode) (space : Space) (kind : Kind) (width : Width) :
    Statement (.translate mode space kind width) := by
  unfold Statement
  cases mode <;> cases space <;> cases kind <;> cases width <;> decide

theorem route (kind : Kind) (width : Width) : Statement (.route kind width) := by
  unfold Statement
  cases kind <;> cases width <;> decide

theorem access (mode : Mode) (space : Space) (kind : Kind) (width : Width) :
    Statement (.access mode space kind width) := by
  unfold Statement
  cases mode <;> cases space <;> cases kind <;> cases width <;> decide

theorem snapshot : Statement .snapshot := by unfold Statement; decide

theorem trapPost (tslot : BitVec 4) : Statement (.trapPost tslot) := by
  unfold Statement
  revert tslot; decide

theorem trapHighest : Statement .trapHighest := by unfold Statement; decide

theorem dispatch : Statement .dispatch := by unfold Statement; decide

theorem intRequest (level : Level) (slot : BitVec 5) : Statement (.intRequest level slot) := by
  unfold Statement
  revert level slot; decide +kernel

theorem intCancel (level : Level) (slot : BitVec 5) : Statement (.intCancel level slot) := by
  unfold Statement
  revert level slot; decide +kernel

theorem intReevaluate (ipl : Level) : Statement (.intReevaluate ipl) := by
  unfold Statement
  revert ipl; decide

theorem intAck (ipl : Level) : Statement (.intAck ipl) := by
  unfold Statement
  revert ipl; decide

theorem devRegister (level : Level) (count : BitVec 6) : Statement (.devRegister level count) := by
  unfold Statement
  revert level count; decide +kernel

theorem devUnregister : Statement .devUnregister := by unfold Statement; decide

theorem reset : Statement .reset := by unfold Statement; decide

end Sys2Proof.Laws.ReservedBitsZero
end

