-- ==== Sys2Proof/Laws/Registers.lean ====
section
/-! SUPPORT. The register surface (44_register_surface): where the registers stand, their accesses, PIA. -/

namespace Sys2Proof.Machine

/-! ### Where the registers stand (10_state R48 to R55) -/

theorem regAt_pdr {m : Mode} {base : Nat} (h : descriptorBase m = some base) (sp : Space) (p : BitVec 3) :
    regAt (base + 0o20 * spaceNumber sp + 2 * p.toNat) = some (.pdr (m.code ++ sp.code ++ p)) := by
  cases m <;> simp only [descriptorBase, Option.some.injEq, reduceCtorEq] at h <;> subst h <;> revert p <;>
    cases sp <;> decide

theorem regAt_par {m : Mode} {base : Nat} (h : descriptorBase m = some base) (sp : Space) (p : BitVec 3) :
    regAt (base + 0o40 + 0o20 * spaceNumber sp + 2 * p.toNat) = some (.par (m.code ++ sp.code ++ p)) := by
  cases m <;> simp only [descriptorBase, Option.some.injEq, reduceCtorEq] at h <;> subst h <;> revert p <;>
    cases sp <;> decide

/-- The descriptor registers are in a built-in window (10_state R56). -/
theorem descriptorWindow (c : Config) {m : Mode} {base : Nat} (h : descriptorBase m = some base) :
    ∃ w ∈ builtinWindows c, w.base ≤ c.ioPageBase + base ∧ c.ioPageBase + base + 0o100 ≤ w.limit := by
  cases m <;> simp only [descriptorBase, Option.some.injEq, reduceCtorEq] at h <;> subst h
  · exact ⟨⟨c.ioPageBase + 0o12200, c.ioPageBase + 0o12400, BLOCK⟩, by simp [builtinWindows], by simp, by simp⟩
  · exact ⟨⟨c.ioPageBase + 0o12200, c.ioPageBase + 0o12400, BLOCK⟩, by simp [builtinWindows], by simp, by simp⟩
  · exact ⟨⟨c.ioPageBase + 0o17600, c.ioPageBase + 0o17700, BLOCK⟩, by simp [builtinWindows], by simp, by simp⟩

/-- Only the three modes that have descriptor registers are reached through one (10_state R53). -/
theorem regAt_mode {off : Nat} {slot : BitVec 6} (h : regAt off = some (.pdr slot) ∨ regAt off = some (.par slot)) :
    slot.extractLsb' 4 2 ≠ 2#2 := by
  have key : ∀ (m : Mode) (o : Nat), m ≠ .unused → o < 64 → (descReg m o = .pdr slot ∨ descReg m o = .par slot) →
      slot.extractLsb' 4 2 ≠ 2#2 := by
    intro m o hm _ hd
    have hs : slot = m.code ++ BitVec.ofNat 4 (o % 0o40 / 2) := by
      unfold descReg at hd
      simp only at hd
      split at hd <;> simp at hd <;> exact hd.symm
    subst hs
    generalize BitVec.ofNat 4 (o % 0o40 / 2) = q
    revert q
    cases m
    · decide
    · decide
    · exact absurd rfl hm
    · decide
  unfold regAt at h
  split at h
  · exact key .supervisor (off - 0o12200) (by decide) (by omega) (by simpa using h)
  · split at h
    · exact key .kernel (off - 0o12300) (by decide) (by omega) (by simpa using h)
    · split at h
      · exact key .user (off - 0o17600) (by decide) (by omega) (by simpa using h)
      · split at h
        · simp at h
        split at h
        · simp at h
        split at h
        · simp at h
        split at h
        · simp at h
        split at h <;> simp at h

/-! ### Word and byte accesses of a register (44_register_surface R360) -/

theorem regAccess_read {s : State} {off : Nat} {r : Reg} (h : regAt off = some r) (he : off % 2 = 0) (d : Word) :
    s.regAccess .read .word off d = .ok s (s.regRead r) := by
  unfold State.regAccess
  rw [he, Nat.sub_zero, h]

theorem regAccess_write {s : State} {off : Nat} {r : Reg} (h : regAt off = some r) (he : off % 2 = 0) (d : Word) :
    s.regAccess .write .word off d = .ok (s.regWrite r d) 0#16 := by
  unfold State.regAccess
  rw [he, Nat.sub_zero, h]

theorem regAccess_readByte {s : State} {off : Nat} {r : Reg} (h : regAt (off - off % 2) = some r) (d : Word) :
    s.regAccess .read .byte off d = .ok s (laneRead (off % 2 == 1) (s.regRead r)) := by
  unfold State.regAccess
  rw [h]

theorem regAccess_writeByte {s : State} {off : Nat} {r : Reg} (h : regAt (off - off % 2) = some r) (d : Word) :
    s.regAccess .write .byte off d = .ok (s.regWrite r (laneMerge (off % 2 == 1) (s.regRead r) d)) 0#16 := by
  unfold State.regAccess
  rw [h]

/-! ### PIA (44_register_surface R375) -/

theorem pia_none_above (s : State) (l : Level) (h : s.pia < l) : s.pirqAt l = false := by
  have hl : l ∈ ([7#3, 6#3, 5#3, 4#3, 3#3, 2#3, 1#3] : List Level) := by
    generalize s.pia = q at h
    revert q l
    decide
  unfold State.pia at h
  cases hf : ([7#3, 6#3, 5#3, 4#3, 3#3, 2#3, 1#3] : List Level).find? (fun l => s.pirqAt l) with
  | none => simpa using List.find?_eq_none.1 hf l hl
  | some m =>
    rw [hf] at h
    exact find?_sorted_above (by decide) hf hl h

theorem pia_requested (s : State) (h : s.pia ≠ 0#3) : s.pirqAt s.pia = true := by
  unfold State.pia at h ⊢
  cases hf : ([7#3, 6#3, 5#3, 4#3, 3#3, 2#3, 1#3] : List Level).find? (fun l => s.pirqAt l) with
  | none => rw [hf] at h; exact absurd rfl h
  | some m =>
    simp only [Option.getD_some]
    simpa using List.find?_some hf

end Sys2Proof.Machine
end

