-- ==== Sys2Proof/Tests/Slice0.lean ====
section
/-! SUPPORT. The model's own tests. Expected values stand in spec/95_test_vectors.md (vectors T-… and E-…, programs P1 to
P5), in spec/30_encoding.md, or are worked by hand from a rule; each docstring says where. Then, for every obligation with
hypotheses, a concrete state and operands that meet them together. -/

namespace Sys2Proof.Tests

set_option Elab.async false

open Sys2Proof.Machine

/-! ## Helpers -/

/-- The start state of spec/95: the constructed state with the default parameters and the draw in which every byte of memory
is 0. -/
def S0 : State := State.construct Config.default []

/-- A state with one presented command. -/
def cmd (s : State) (cw a b c d : Word32) : State := { s with commands := [⟨cw, ⟨a, b, c, d⟩⟩] }

/-- A state with operands latched. -/
def opd (s : State) (a b c d : Word32) : State := { s with ops := ⟨a, b, c, d⟩ }

/-- The state a step answers; a step that stops keeps its state. -/
def after (s : State) : State :=
  match step s with
  | .next t => t
  | _ => s

/-- The state after one command. -/
def run (s : State) (cw a b c d : Word32) : State := after (cmd s cw a b c d)

/-- The answer to one command. -/
def ans (s : State) (cw a b c d : Word32) : Option Answer := (run s cw a b c d).answer

/-- An answer OK. -/
def ok (q0 q1 q2 q3 : Word32) : Option Answer := some ⟨.ok, q0, q1, q2, q3, none⟩

/-- An answer without results. -/
def bare (st : Status) : Option Answer := some ⟨st, 0#32, 0#32, 0#32, 0#32, none⟩

/-- A refusal. -/
def refusal (why : RefuseReason) : Option Answer := some ⟨.refused, 0#32, 0#32, 0#32, 0#32, some why⟩

/-- The constructed state with translation enabled and one descriptor set. -/
def withDesc (slot : BitVec 6) (d : Desc) : State := { S0.setDesc slot d with enable := true }

/-- SETUP-2 of spec/95: kernel I page 2 readable, PAF 0x100, PLF 0x10. -/
def setup2 : State := withDesc 2#6 ⟨0x100#16, 0x10#7, false, false, true, false⟩

/-- Device 9 owns slots 0 to 3 of level 5 and device 7 slots 4 to 7; the priority is 0 (E-3, steps 1 to 3). -/
def twoDevices : State :=
  run (run (run S0 0x60144000#32 0x3FF900#32 0x3FF908#32 9#32 0o264#32)
    0x60144000#32 0x3FF908#32 0x3FF910#32 7#32 0o304#32) 0x48000000#32 0#32 0#32 0#32 0#32

/-- Memory with words written, and a trap mask. -/
def memAndMask (words : List (Nat × Word)) (tm : BitVec 16) : State :=
  { S0 with mem := words.foldl (fun m w => memWrite m w.1 .word w.2) [], trapmask := tm }

/-! ## WellFormed refuses ill-formed terms (30_encoding R127) -/

/-- Slot 15 cannot be posted. -/
theorem test_wellFormed_trapPost : (Instr.trapPost 15#4).wellFormed Config.default = false := by decide

/-- At NSLOTS = 4 there is no slot 4 (T-ENC-3). -/
theorem test_wellFormed_intRequest :
    (Instr.intRequest 4#3 4#5).wellFormed { Config.default with nslots := 4 } = false := by decide

/-- At NSLOTS = 4 there is no slot 4. -/
theorem test_wellFormed_intCancel :
    (Instr.intCancel 4#3 4#5).wellFormed { Config.default with nslots := 4 } = false := by decide

/-- COUNT is at most NSLOTS. -/
theorem test_wellFormed_devRegister : (Instr.devRegister 4#3 33#6).wellFormed Config.default = false := by decide

/-! ## Decoding: words from the bit layouts of 30_encoding R121 to R123 and from spec/95 -/

/-- E-2, row 1. -/
theorem test_decode_translate :
    decode 0x04000000#32 = .ok (.translate .kernel .instruction .read .word) := by decide
/-- T-PT-2; every field of the format set. -/
theorem test_decode_translate_fields :
    decode 0x07C00000#32 = .ok (.translate .user .data .write .word) := by decide
/-- T-PT-2, mode 2. -/
theorem test_decode_translate_mode2 :
    decode 0x06800000#32 = .ok (.translate .unused .data .read .word) := by decide
/-- T-REG-3. -/
theorem test_decode_route : decode 0x08600000#32 = .ok (.route .write .byte) := by decide
/-- T-ENC-2. -/
theorem test_decode_access : decode 0x0D400000#32 = .ok (.access .supervisor .instruction .write .word) := by decide
/-- T-ENC-2. -/
theorem test_decode_access_byte : decode 0x0FA00000#32 = .ok (.access .user .data .read .byte) := by decide
/-- E-2, row 2. -/
theorem test_decode_snapshot : decode 0x10000000#32 = .ok .snapshot := by decide
/-- E-6, row 1. -/
theorem test_decode_trapPost : decode 0x20000006#32 = .ok (.trapPost 6#4) := by decide
/-- E-6, row 3. -/
theorem test_decode_trapHighest : decode 0x24000000#32 = .ok .trapHighest := by decide
/-- E-6, row 4. -/
theorem test_decode_dispatch : decode 0x28000000#32 = .ok .dispatch := by decide
/-- T-ENC-2. -/
theorem test_decode_intRequest : decode 0x40146000#32 = .ok (.intRequest 5#3 3#5) := by decide
/-- OP 0x11 with LEVEL 5 and SLOT 3 (R121, R123). -/
theorem test_decode_intCancel : decode 0x44146000#32 = .ok (.intCancel 5#3 3#5) := by decide
/-- E-4, row 2. -/
theorem test_decode_intReevaluate : decode 0x48000005#32 = .ok (.intReevaluate 5#3) := by decide
/-- T-ENC-2. -/
theorem test_decode_intAck : decode 0x4C000005#32 = .ok (.intAck 5#3) := by decide
/-- T-ENC-2. -/
theorem test_decode_devRegister : decode 0x60142000#32 = .ok (.devRegister 5#3 2#6) := by decide
/-- E-5, row 3. -/
theorem test_decode_devUnregister : decode 0x64000000#32 = .ok .devUnregister := by decide
/-- T-RST-2. -/
theorem test_decode_reset : decode 0xFC000000#32 = .ok .reset := by decide

/-- T-ENC-1: illegal command words. -/
theorem test_decode_illegal :
    decode 0x00000000#32 = .error (.unassignedOp 0#6) ∧ decode 0x14000000#32 = .error (.unassignedOp 5#6) ∧
    decode 0x24000001#32 = .error .reservedBits ∧ decode 0x04000001#32 = .error .reservedBits ∧
    decode 0x08800000#32 = .error .reservedBits ∧ decode 0xFC000001#32 = .error .reservedBits := by decide

/-- T-ENC-2 through the table's entry point. -/
theorem test_decodeTableWord :
    decodeTableWord 32 0x0CC00000 = some (.access .kernel .data .write .word) := by decide

/-- What stands at the port runs as the first command after reset: a TRAP_POST, and a store to memory whatever it holds. -/
theorem test_withFetchWord :
    (after (State.reset.withFetchWord 32 0x20000006)).trapmask = 0x0040#16 ∧
    (after (State.reset.withFetchWord 32 0x08400000)).answer = ok 0#32 0#32 0#32 0#32 := by decide +kernel

/-! ## The default parameters and memory -/

/-- 00_scope R6 to R15: the defaults satisfy the spec's constraints at both widths. -/
theorem test_defaults : Config.default.WF ∧ Config.legacy.WF ∧ Config.default.ioPageBase = 0x3FE000 ∧
    Config.legacy.ioPageBase = 0x3E000 := by decide

/-- Memory's canonical form at reset, and at construction with any draw. -/
theorem test_reset_memory : Memory.wf State.reset.mem ∧ ∀ c d, Memory.wf (State.construct c d).mem :=
  ⟨Memory.wf_ofDraw _ _, fun _ _ => Memory.wf_ofDraw _ _⟩

/-- A draw lists installed bytes only, and its last value for an address counts (10_state R46). -/
theorem test_powerOn_draw :
    (State.construct Config.default [(3, 5#8), (0x40000, 9#8), (1, 4#8), (3, 7#8)]).mem = [(1, 4#8), (3, 7#8)] := by
  decide

/-- Writing the value an unlisted address reads as removes the entry. -/
theorem test_memory_canonical :
    Memory.write (Memory.write [] 3 5#8) 3 0#8 = [] ∧
    Memory.write (Memory.write [] 3 5#8) 1 7#8 = [(1, 7#8), (3, 5#8)] := by decide

/-! ## Single steps, at most two for each command -/

/-- T-PT-1. -/
theorem test_translate_relocates :
    ans setup2 0x04000000#32 0x4140#32 0x1000#32 0#32 0#32 = ok 0x4140#32 0#32 0#32 0#32 := by decide +kernel

/-- E-1, rows 1 and 2: the sum wraps at 22 bits; block 0x7E is below PLF 0x7F of a page that expands downward. -/
theorem test_translate_wraps_and_checks_length :
    let s := { withDesc 63#6 ⟨0xFFFF#16, 0x7F#7, true, true, true, false⟩ with ext := true }
    ans s 0x07C00000#32 0xFFFE#32 0#32 0#32 0#32 = ok 0x1FBE#32 0#32 0#32 0#32 ∧
    ans s 0x07C00000#32 0xFF80#32 0#32 0#32 0#32 = bare .pageLength := by decide +kernel

/-- T-REG-1 and T-REG-10: a read of SR0, and TRAPCLR clearing the one persistent slot. -/
theorem test_route_registers :
    ans { S0 with enable := true } 0x08000000#32 0x3FFF7A#32 0#32 0#32 0#32 = ok 1#32 0#32 0#32 0#32 ∧
    (run { S0 with trapmask := 0x24#16 } 0x08400000#32 0x3FFFEE#32 0xFFFF#32 0#32 0#32).trapmask =
      0x0004#16 := by decide +kernel

/-- T-REG-12 and T-REG-9: the MMR1 hole, and PIRQ reading 0xFEEE with every request set. -/
theorem test_route_hole_and_pirq :
    ans S0 0x08000000#32 0x3FFF7C#32 0#32 0#32 0#32 = bare .nxm ∧
    ans { S0 with pirq := 0x7F#7 } 0x08000000#32 0x3FFFFA#32 0#32 0#32 0#32 = ok 0xFEEE#32 0#32 0#32 0#32 := by
  decide +kernel

/-- P1, step 6: the failing write latches its fault and posts MME. -/
theorem test_access_readOnly :
    let t := run setup2 0x0C400000#32 0x4140#32 0x1234#32 0x1002#32 0#32
    t.answer = bare .readOnly ∧ t.fr = ⟨.readOnly, 2#6, 0x1002#16⟩ ∧ t.trapmask = 0x0004#16 := by decide +kernel

/-- P4, step 9: a byte write at the odd address sets the W bit and the high byte. -/
theorem test_access_byte_write :
    let t := run { withDesc 15#6 ⟨0xF80#16, 0x7F#7, false, true, true, false⟩ with ext := true }
      0x0CE00000#32 0xFF7B#32 0x0080#32 0x2002#32 0#32
    t.answer = ok 0#32 0x3FF7B#32 0#32 0#32 ∧ (t.descAt 15#6).wr = true ∧ t.mem = [(0x3FF7B, 0x80#8)] := by
  decide +kernel

/-- P1, step 7. -/
theorem test_snapshot :
    ans { S0 with fr := ⟨.readOnly, 2#6, 0x1002#16⟩ } 0x10000000#32 0#32 0#32 0#32 0#32 =
      ok 3#32 2#32 0x1002#32 0#32 := by decide +kernel

/-- E-6, row 1. -/
theorem test_trapPost : (run S0 0x20000006#32 0#32 0#32 0#32 0#32).trapmask = 0x0040#16 := by decide +kernel

/-- T-ENC-1: slot 15 is refused. -/
theorem test_trapPost_refused :
    let t := run S0 0x2000000F#32 0#32 0#32 0#32 0#32
    t.answer = refusal .slot15NotPostable ∧ t.trapmask = 0#16 ∧ t.refused = true := by decide +kernel

/-- E-6, row 3, with a higher slot pending as well. -/
theorem test_trapHighest :
    ans { S0 with trapmask := 0x8044#16 } 0x24000000#32 0#32 0#32 0#32 0#32 = ok 2#32 0#32 0#32 0#32 := by
  decide +kernel

/-- P5, step 2: a persistent trap. -/
theorem test_dispatch_persistent :
    let t := run (memAndMask [(4, 0x0400#16), (6, 0x00E0#16)] 0x0020#16) 0x28000000#32 0x1234#32 0xC000#32 0x1000#32 0#32
    t.answer = ok 0x0400#32 0x30E0#32 0x0FFC#32 0x0004#32 ∧ t.trapmask = 0x0020#16 ∧
    memRead t.mem 0x0FFE .word = 0xC000#16 ∧ memRead t.mem 0x0FFC .word = 0x1234#16 := by decide +kernel

/-- P2, step 7: a device interrupt; the other device's level is masked afterwards. -/
theorem test_dispatch_device :
    let s := { (memAndMask [(0xC0, 0x3000#16), (0xC2, 0x00A0#16)] 0#16).register 5#3 1 0 0x3FF900 0x3FF908 1#32 0xC0#16
      with iplShadow := 0#3 }
    let t := run (run s 0x40140000#32 1#32 0#32 0#32 0#32) 0x28000000#32 0x1000#32 0#32 0x0800#32 0#32
    t.answer = ok 0x3000#32 0x00A0#32 0x07FC#32 0x00C0#32 ∧ t.pendAt 5#3 = 0#32 ∧ t.iplShadow = 5#3 ∧
    t.trapmask = 0#16 := by decide +kernel

/-- E-3, row 4. -/
theorem test_intRequest :
    let t := run twoDevices 0x40146000#32 9#32 0#32 0#32 0#32
    t.pendAt 5#3 = 0x08#32 ∧ t.trapmask = 0x8000#16 := by decide +kernel

/-- 42_interrupts R281: not the owner. -/
theorem test_intRequest_refused :
    ans twoDevices 0x40146000#32 7#32 0#32 0#32 0#32 = refusal .unownedSlot := by decide +kernel

/-- 42_interrupts R282, worked from E-3, row 4. -/
theorem test_intCancel :
    let t := run (run twoDevices 0x40146000#32 9#32 0#32 0#32 0#32) 0x44146000#32 9#32 0#32 0#32 0#32
    t.pendAt 5#3 = 0#32 ∧ t.trapmask = 0#16 := by decide +kernel

/-- E-4, rows 5 and 6. -/
theorem test_intReevaluate :
    let s := { S0.setPend 4#3 1#32 with iplShadow := 5#3 }
    ans s 0x48000004#32 0#32 0#32 0#32 0#32 = ok 0#32 0#32 0#32 0#32 ∧
    ans s 0x48000003#32 0#32 0#32 0#32 0#32 = ok 1#32 0#32 0#32 0#32 := by decide +kernel

/-- E-3, row 6: slot 3 before slot 7. -/
theorem test_intAck :
    let t := run (twoDevices.setPend 5#3 0x88#32) 0x4C000000#32 0#32 0#32 0#32 0#32
    t.answer = ok 0xC0#32 5#32 3#32 0#32 ∧ t.pendAt 5#3 = 0x80#32 := by decide +kernel

/-- 42_interrupts R286 to R288: a software request has no slot and keeps its PIRQ bit. -/
theorem test_intAck_software :
    let t := run { S0 with pirq := 0x08#7, iplShadow := 0#3 } 0x4C000000#32 0#32 0#32 0#32 0#32
    t.answer = ok 0xA0#32 4#32 0xFFFFFFFF#32 0#32 ∧ t.pirq = 0x08#7 ∧ t.trapmask = 0x8000#16 := by decide +kernel

/-- E-3, row 2: the second device's slots begin at 4, with vectors 4 bytes apart. -/
theorem test_devRegister :
    twoDevices.ownerAt 5#3 7 = some 7#32 ∧ twoDevices.vecAt 5#3 7 = 0o320#16 ∧ twoDevices.ownerAt 5#3 8 = none := by
  decide +kernel

/-- P3, steps 9 and 10. -/
theorem test_devRegister_rejected :
    ans S0 0x60081000#32 0x3FF940#32 0x3FF942#32 6#32 0o500#32 = bare .slotsExhausted ∧
    ans S0 0x60000000#32 0x3FFF70#32 0x3FFF7C#32 7#32 0#32 = bare .overlap := by decide +kernel

/-- T-BUS-15: the pending request goes with the device. -/
theorem test_devUnregister :
    let t := run (run twoDevices 0x40146000#32 9#32 0#32 0#32 0#32) 0x64000000#32 9#32 0#32 0#32 0#32
    t.trapmask = 0#16 ∧ t.ownerAt 5#3 3 = none ∧ t.vecAt 5#3 3 = 0#16 ∧ t.windows.length = 8 := by decide +kernel

/-- T-RST-2: the request goes, the registry stays. -/
theorem test_reset :
    let t := run { run twoDevices 0x40146000#32 9#32 0#32 0#32 0#32 with enable := true } 0xFC000000#32 0#32 0#32 0#32 0#32
    t.trapmask = 0#16 ∧ t.iplShadow = 7#3 ∧ t.enable = false ∧ t.ownerAt 5#3 3 = some 9#32 := by decide +kernel

/-! ## Witnesses: states and operands that meet an obligation's hypotheses together

Each is named after its obligation. A statement with several clauses has one part for each, at boundary values. -/

/-- The constructed state meets the invariant, whatever its latched operands. -/
theorem witness_inv (a b c d : Word32) : (opd S0 a b c d).Inv := by
  have h : S0.Inv := by constructor <;> decide +kernel
  exact ⟨h.params, h.memForm, h.memInstalled, h.windowBounds, h.windowsApart, h.builtinPresent, h.builtinOnly, h.slotsExist,
    h.freeVector, h.pendOwned, h.modeTwo, h.extHardwired, h.recordEmpty, h.aggregateFresh⟩

/-- A state built at PAW = 18 meets the invariant too. -/
theorem witness_inv_legacy (a b c d : Word32) : (opd (State.construct Config.legacy []) a b c d).Inv := by
  have h : (State.construct Config.legacy []).Inv := by constructor <;> decide +kernel
  exact ⟨h.params, h.memForm, h.memInstalled, h.windowBounds, h.windowsApart, h.builtinPresent, h.builtinOnly, h.slotsExist,
    h.freeVector, h.pendOwned, h.modeTwo, h.extHardwired, h.recordEmpty, h.aggregateFresh⟩

/-- A state with a frozen record, a device, a pending request and a written page meets the invariant. -/
def busy : State :=
  { ((run twoDevices 0x40146000#32 9#32 0#32 0#32 0#32).setDesc 15#6 ⟨0xF80#16, 0x7F#7, false, true, true, true⟩).setFr
      ⟨.readOnly, 2#6, 0x1002#16⟩ with enable := true, mem := [(0x3FFFF, 1#8)] }

/-- The invariant is not a property of empty states alone. -/
theorem witness_inv_busy : busy.Inv := by constructor <;> decide +kernel

/-- One word for each constructor is decoded in the tests above; here the first and the last row of the map. -/
theorem witness_DecodedFieldsAreTheirBits :
    decode 0x07E00000#32 = .ok (.translate .user .data .write .byte) ∧ decode 0xFC000000#32 = .ok .reset := by decide

theorem witness_StepPerformsTheOldestCommand :
    ((cmd S0 0x10000000#32 0#32 0#32 0#32 0#32).stopped = false ∧
      (cmd S0 0x10000000#32 0#32 0#32 0#32 0#32).commands = [⟨0x10000000#32, ⟨0#32, 0#32, 0#32, 0#32⟩⟩] ∧
      decode 0x10000000#32 = .ok .snapshot) ∧
    S0.stopped = false ∧ S0.commands = [] := by decide

theorem witness_IllegalWordIsRefused :
    (cmd S0 0xFC000001#32 0#32 0#32 0#32 0#32).stopped = false ∧
    decode 0xFC000001#32 = .error .reservedBits ∧ decode 0x00000000#32 = .error (.unassignedOp 0#6) := by decide

theorem witness_StoppedBlockHasNoStep : ({ S0 with stopped := true } : State).stopped = true := by decide

theorem witness_TranslateOddWordFails :
    (opd S0 0xFFFF#32 0#32 0#32 0#32).cfg.enforceOdd = true ∧
    (opd S0 0xFFFF#32 0#32 0#32 0#32).ops.a.getLsbD 0 = true := by decide

theorem witness_TranslateDisabledWidens :
    (opd S0 0xE000#32 0#32 0#32 0#32).enable = false ∧
    (Width.word = .word → (opd S0 0xE000#32 0#32 0#32 0#32).cfg.enforceOdd = true →
      (opd S0 0xE000#32 0#32 0#32 0#32).ops.a.getLsbD 0 = false) := by decide

/-- The three failing checks: a descriptor at reset, block 0x11 of a page of length 0x10, and a write to a page that is
read-only at its last block. -/
theorem witness_TranslateEnabledFaults :
    (setup2.enable = true ∧ IsSlot 3#6 .kernel .instruction 0x6000#16 ∧ (setup2.descAt 3#6).r = false) ∧
    (IsSlot 2#6 .kernel .instruction 0x4440#16 ∧ (setup2.descAt 2#6).r = true ∧
      ¬ InLength (setup2.descAt 2#6) 0x4440#16) ∧
    (IsSlot 2#6 .kernel .instruction 0x4400#16 ∧ InLength (setup2.descAt 2#6) 0x4400#16 ∧
      (setup2.descAt 2#6).w = false) := by decide +kernel

/-- The last slot, written, at the first block of a page that expands downward. -/
theorem witness_TranslateEnabledRelocates :
    let s := opd (withDesc 63#6 ⟨0xFFFF#16, 0x7F#7, true, true, true, false⟩) 0xFFFE#32 0#32 0#32 0#32
    s.enable = true ∧ s.ops.a.getLsbD 0 = false ∧ IsSlot 63#6 .user .data (s.ops.a.setWidth 16) ∧
    (s.descAt 63#6).r = true ∧ InLength (s.descAt 63#6) (s.ops.a.setWidth 16) ∧ (s.descAt 63#6).w = true := by
  decide +kernel

/-- The next state of a command performed on its own; a stop keeps its state. -/
def result (i : Instr) (s : State) : State :=
  match exec i s with
  | .next t => t
  | _ => s

/-- The answer a state holds, REFUSED with an illegal word where it holds none. -/
def answerOf (s : State) : Answer := s.answer.getD (Answer.refusal (.illegalWord .reservedBits))

/-- A frozen record, and the write to SR0 that clears it. -/
theorem witness_FrozenRecordIsKeptOrCleared :
    let s := opd busy 0x3FFF7A#32 1#32 0#32 0#32
    exec (.route .write .word) s = .next (result (.route .write .word) s) ∧
    s.fr.reason ≠ .none ∧ (result (.route .write .word) s).fr = FaultRecord.empty := by
  refine ⟨rfl, ?_, ?_⟩ <;> decide +kernel

/-- A set W bit under a read access, and a clear one under a write access that sets it. -/
theorem witness_DirtyBitChangesOnlyByWrites :
    let s := opd busy 0xE000#32 0#32 0#32 0#32
    let t := result (.access .kernel .data .read .word) s
    let c := opd (withDesc 15#6 ⟨0xF80#16, 0x7F#7, false, true, true, false⟩) 0xE000#32 0#32 0#32 0#32
    let d := result (.translate .kernel .data .write .word) c
    exec (.access .kernel .data .read .word) s = .next t ∧ (s.descAt 15#6).wr = true ∧ t.answer = bare .nxm ∧
    exec (.translate .kernel .data .write .word) c = .next d ∧ (c.descAt 15#6).wr = false ∧ (d.descAt 15#6).wr = true := by
  refine ⟨rfl, ?_, ?_, rfl, ?_, ?_⟩ <;> decide +kernel

/-- The hypotheses of Sr0ReadShowsRecordAndEnable and of Sr0WriteSetsEnableAndClears (the value is a definition). -/
theorem witness_Sr0 : (opd S0 0x3FFF7A#32 1#32 0#32 0#32).Inv ∧
    (opd S0 0x3FFF7A#32 1#32 0#32 0#32).AddressesRegister 0o17572 := ⟨witness_inv _ _ _ _, by decide⟩

theorem witness_Sr2ReadsPcIgnoresWrites : (opd S0 0x3FFF7E#32 1#32 0#32 0#32).Inv ∧
    (opd S0 0x3FFF7E#32 1#32 0#32 0#32).AddressesRegister 0o17576 := ⟨witness_inv _ _ _ _, by decide⟩

/-- At both widths. -/
theorem witness_Sr3HoldsExt : ((opd S0 0x3FF54E#32 0x10#32 0#32 0#32).Inv ∧
      (opd S0 0x3FF54E#32 0x10#32 0#32 0#32).AddressesRegister 0o12516) ∧
    ((opd (State.construct Config.legacy []) 0x3F54E#32 0x10#32 0#32 0#32).Inv ∧
      (opd (State.construct Config.legacy []) 0x3F54E#32 0x10#32 0#32 0#32).AddressesRegister 0o12516) :=
  ⟨⟨witness_inv _ _ _ _, by decide⟩, ⟨witness_inv_legacy _ _ _ _, by decide⟩⟩

/-- Addresses of spec/95 §0: kernel I PDR 2, and the last, user D PDR 7 (10_state R51). -/
theorem witness_PdrReadsAndWrites :
    ((opd S0 0x3FF4C4#32 0#32 0#32 0#32).Inv ∧ descriptorBase .kernel = some 0o12300 ∧
      (opd S0 0x3FF4C4#32 0#32 0#32 0#32).AddressesRegister
        (0o12300 + 0o20 * spaceNumber .instruction + 2 * (2#3).toNat) ∧
      (2#6).toNat = 16 * modeNumber .kernel + 8 * spaceNumber .instruction + (2#3).toNat) ∧
    ((opd S0 0x3FFF9E#32 0#32 0#32 0#32).Inv ∧ descriptorBase .user = some 0o17600 ∧
      (opd S0 0x3FFF9E#32 0#32 0#32 0#32).AddressesRegister
        (0o17600 + 0o20 * spaceNumber .data + 2 * (7#3).toNat) ∧
      (63#6).toNat = 16 * modeNumber .user + 8 * spaceNumber .data + (7#3).toNat) :=
  ⟨⟨witness_inv _ _ _ _, by decide⟩, ⟨witness_inv _ _ _ _, by decide⟩⟩

/-- T-REG-11: supervisor D PAR 3 and user D PAR 7. -/
theorem witness_ParReadsAndWrites :
    ((opd S0 0x3FF4B6#32 0#32 0#32 0#32).Inv ∧ descriptorBase .supervisor = some 0o12200 ∧
      (opd S0 0x3FF4B6#32 0#32 0#32 0#32).AddressesRegister
        (0o12200 + 0o40 + 0o20 * spaceNumber .data + 2 * (3#3).toNat) ∧
      (27#6).toNat = 16 * modeNumber .supervisor + 8 * spaceNumber .data + (3#3).toNat) ∧
    ((opd S0 0x3FFFBE#32 0#32 0#32 0#32).Inv ∧ descriptorBase .user = some 0o17600 ∧
      (opd S0 0x3FFFBE#32 0#32 0#32 0#32).AddressesRegister
        (0o17600 + 0o40 + 0o20 * spaceNumber .data + 2 * (7#3).toNat) ∧
      (63#6).toNat = 16 * modeNumber .user + 8 * spaceNumber .data + (7#3).toNat) :=
  ⟨⟨witness_inv _ _ _ _, by decide⟩, ⟨witness_inv _ _ _ _, by decide⟩⟩

/-- The hypotheses of PirqReadShowsRequestsAndPia and PirqWriteReevaluates. -/
theorem witness_Pirq : (opd S0 0x3FFFFA#32 0xFFFF#32 0#32 0#32).Inv ∧
    (opd S0 0x3FFFFA#32 0xFFFF#32 0#32 0#32).AddressesRegister 0o17772 := ⟨witness_inv _ _ _ _, by decide⟩

theorem witness_TrapclrReadsAndClearsPersistent : (opd S0 0x3FFFEE#32 0xFFFF#32 0#32 0#32).Inv ∧
    (opd S0 0x3FFFEE#32 0xFFFF#32 0#32 0#32).AddressesRegister 0o17756 := ⟨witness_inv _ _ _ _, by decide⟩

/-- The hypotheses of RegisterByteReadIsALane and RegisterByteWriteMerges, at the first and the last built-in byte. -/
theorem witness_RegisterBytes :
    ((opd S0 0x3FF480#32 0x56#32 0#32 0#32).Inv ∧ (opd S0 0x3FF480#32 0x56#32 0#32 0#32).AddressesBuiltin) ∧
    ((opd S0 0x3FFFFB#32 0x56#32 0#32 0#32).Inv ∧ (opd S0 0x3FFFFB#32 0x56#32 0#32 0#32).AddressesBuiltin) :=
  ⟨⟨witness_inv _ _ _ _, by decide⟩, ⟨witness_inv _ _ _ _, by decide⟩⟩

theorem witness_TrapPostSetsOneBit : (0#4 ≠ 15#4) ∧ (14#4 ≠ 15#4) := by decide

/-- An empty mask; the least slot 0; the last slot 15 alone. -/
theorem witness_TrapHighestIsTheLeastSetSlot :
    S0.trapmask = 0#16 ∧
    ((0xFFFF#16).getLsbD 0 = true ∧ ∀ j < 0, (0xFFFF#16).getLsbD j = false) ∧
    ((0x8000#16).getLsbD 15 = true ∧ ∀ j < 15, (0x8000#16).getLsbD j = false) := by decide

/-- An empty mask, and a stale slot 15 with a request at level 4 under a PSW of priority 4. -/
theorem witness_DispatchWithNothingToService :
    S0.trapmask = 0#16 ∧
    let s := opd { S0.setPend 4#3 1#32 with trapmask := 0x8000#16 } 0#32 0x80#32 0#32 0#32
    s.trapmask = 0x8000#16 ∧ ¬ s.requestAbove (s.ops.b.extractLsb' 5 3) := by decide +kernel

/-- With translation disabled, each address of a word of memory below the I/O page reaches itself. -/
theorem kernelWord_disabled (s : State) (k : Kind) (va : Word) (slot : BitVec 6) (h : s.enable = false)
    (hodd : va.getLsbD 0 = false) (hpa : widenedAddress s.cfg.paw va < s.cfg.memSize)
    (hslot : IsSlot slot .kernel .data va) : s.KernelWord k va (widenedAddress s.cfg.paw va) :=
  ⟨hodd, hpa, slot, hslot, .inl ⟨h, rfl⟩⟩

/-- P5, step 2: slot 5, its vector at 4, the kernel stack at 0x1000. -/
theorem witness_DispatchEntersTheHighestTrap :
    let s := opd { S0 with trapmask := 0x0020#16 } 0x1234#32 0xC000#32 0x1000#32 0#32
    s.cfg.WF ∧ s.trapmask.getLsbD (5 : Fin 15).val = true ∧ (∀ j < (5 : Fin 15).val, s.trapmask.getLsbD j = false) ∧
    4#16 = s.cfg.trapTable[(5 : Fin 15)].vector ∧ s.EntryWords 4#16 (s.ops.c.setWidth 16) 4 6 0x0FFE 0x0FFC :=
  ⟨by decide, by decide, by decide, by decide,
    ⟨kernelWord_disabled _ _ _ 8#6 rfl (by decide) (by decide) (by decide),
     kernelWord_disabled _ _ _ 8#6 rfl (by decide) (by decide) (by decide),
     kernelWord_disabled _ _ _ 8#6 rfl (by decide) (by decide) (by decide),
     kernelWord_disabled _ _ _ 8#6 rfl (by decide) (by decide) (by decide)⟩⟩

/-- P2, step 7: level 5 before level 4; here slot 31, the last, with level 4 pending too. -/
theorem witness_DispatchEntersTheDeviceInterrupt :
    let s := opd { ((S0.register 5#3 32 0 0x3FF900 0x3FF908 1#32 0xC0#16).setPend 5#3 0x80000000#32).setPend 4#3 1#32
      with trapmask := 0x8000#16 } 0x1000#32 0#32 0x0800#32 0#32
    s.cfg.WF ∧ s.trapmask = 0x8000#16 ∧ s.ops.b.extractLsb' 5 3 < 5#3 ∧ (∀ l', 5#3 < l' → s.pendAt l' = 0#32) ∧
    (s.pendAt 5#3).getLsbD (31 : Fin 32).val = true ∧ (∀ j < (31 : Fin 32).val, (s.pendAt 5#3).getLsbD j = false) ∧
    s.vecAt 5#3 (31 : Fin 32).val = 0x13C#16 ∧ s.EntryWords 0x13C#16 (s.ops.c.setWidth 16) 0x13C 0x13E 0x07FE 0x07FC := by
  refine ⟨?_, ?_, ?_, ?_, ?_, ?_, ?_,
    ⟨kernelWord_disabled _ _ _ 8#6 rfl (by decide) (by decide) (by decide),
     kernelWord_disabled _ _ _ 8#6 rfl (by decide) (by decide) (by decide),
     kernelWord_disabled _ _ _ 8#6 rfl (by decide) (by decide) (by decide),
     kernelWord_disabled _ _ _ 8#6 rfl (by decide) (by decide) (by decide)⟩⟩ <;> decide +kernel

/-- Level 7 above priority 6, and nothing of a device above it. -/
theorem witness_DispatchEntersTheSoftwareInterrupt :
    let s := opd { S0 with trapmask := 0x8000#16, pirq := 0x7F#7 } 0x1000#32 0xC0#32 0x0800#32 0#32
    s.cfg.WF ∧ s.trapmask = 0x8000#16 ∧ (7#3).toNat = (6 : Fin 7).val + 1 ∧ s.ops.b.extractLsb' 5 3 < 7#3 ∧
    (∀ l', s.ops.b.extractLsb' 5 3 < l' → s.pendAt l' = 0#32) ∧ s.pirq.getLsbD (6 : Fin 7).val = true ∧
    (∀ i : Fin 7, (6 : Fin 7) < i → s.pirq.getLsbD i.val = false) ∧
    s.cfg.swiVec[(6 : Fin 7)] = 0xA0#16 ∧ s.EntryWords 0xA0#16 (s.ops.c.setWidth 16) 0xA0 0xA2 0x07FE 0x07FC := by
  refine ⟨?_, ?_, ?_, ?_, ?_, ?_, ?_, ?_,
    ⟨kernelWord_disabled _ _ _ 8#6 rfl (by decide) (by decide) (by decide),
     kernelWord_disabled _ _ _ 8#6 rfl (by decide) (by decide) (by decide),
     kernelWord_disabled _ _ _ 8#6 rfl (by decide) (by decide) (by decide),
     kernelWord_disabled _ _ _ 8#6 rfl (by decide) (by decide) (by decide)⟩⟩ <;> decide +kernel

theorem witness_DispatchOutcomes : S0.stopped = false := by decide

/-- Translation on with every descriptor at reset: the vector's page is not resident (slot 8, kernel D page 0). -/
theorem witness_DispatchStopsOnAFaultingVector :
    let s : State := { S0 with trapmask := 0x4000#16, enable := true }
    s.trapmask.getLsbD (14 : Fin 15).val = true ∧ (∀ j < (14 : Fin 15).val, s.trapmask.getLsbD j = false) ∧
    s.enable = true ∧ (s.cfg.trapTable[(14 : Fin 15)].vector).getLsbD 0 = false ∧
    IsSlot 8#6 .kernel .data s.cfg.trapTable[(14 : Fin 15)].vector ∧ (s.descAt 8#6).r = false := by decide +kernel

/-- The owner's last slot, and a device that owns nothing: for INT_REQUEST and INT_CANCEL. -/
theorem witness_IntRequestAndCancel :
    let s := opd (S0.register 7#3 32 0 0x3FF900 0x3FF908 3#32 0o340#16) 3#32 0#32 0#32 0#32
    (4 ≤ (7#3).toNat ∧ (31#5).toNat < s.cfg.nslots ∧ s.ops.a ≠ 0xFFFFFFFF#32 ∧
      s.ownerAt 7#3 (31#5).toNat = some s.ops.a) ∧
    ¬ (4 ≤ (3#3).toNat ∧ (31#5).toNat < s.cfg.nslots ∧ s.ops.a ≠ 0xFFFFFFFF#32 ∧
      s.ownerAt 3#3 (31#5).toNat = some s.ops.a) := by decide +kernel

/-- Level 7 above 6, slot 31 the least that is pending. -/
theorem witness_IntAckTakesTheDeviceRequest :
    let s := S0.setPend 7#3 0x80000000#32
    6#3 < 7#3 ∧ (∀ l', 7#3 < l' → s.pendAt l' = 0#32) ∧ (s.pendAt 7#3).getLsbD (31 : Fin 32).val = true ∧
    (∀ j < (31 : Fin 32).val, (s.pendAt 7#3).getLsbD j = false) := by decide +kernel

/-- A software request at level 1 above 0, and none above 1. -/
theorem witness_IntAckTakesTheSoftwareRequest :
    let s : State := { S0 with pirq := 0x01#7 }
    (∀ l', 0#3 < l' → s.pendAt l' = 0#32) ∧
    ((1#3).toNat = (0 : Fin 7).val + 1 ∧ 0#3 < 1#3 ∧ s.pirq.getLsbD (0 : Fin 7).val = true ∧
      ∀ i : Fin 7, (0 : Fin 7) < i → s.pirq.getLsbD i.val = false) ∧
    (∀ (j : Fin 7) (l : Level), l.toNat = j.val + 1 → 1#3 < l → s.pirq.getLsbD j.val = false) := by decide +kernel

/-- INT_ACK answers OK; a re-evaluation with a request at the priority, not above it. -/
theorem witness_RequestsAtOrBelowThePriorityAreMasked :
    let s := S0.setPend 7#3 1#32
    (exec (.intAck 6#3) s = .next (result (.intAck 6#3) s) ∧
      (result (.intAck 6#3) s).answer = some (answerOf (result (.intAck 6#3) s)) ∧
      (answerOf (result (.intAck 6#3) s)).status = .ok) ∧
    (exec (.intReevaluate 7#3) s = .next (result (.intReevaluate 7#3) s) ∧
      ∀ l : Level, 7#3 < l → s.pendAt l = 0#32 ∧ s.pirqAt l = false) := by
  refine ⟨⟨rfl, ?_, ?_⟩, rfl, ?_⟩ <;> decide +kernel

/-- The last memory byte, and the last memory word, for RouteReadsMemory and RouteWritesMemory. -/
theorem witness_RouteMemory :
    Config.default.WF ∧
    ((opd S0 0x3FFFF#32 0#32 0#32 0#32).ops.a.toNat = 0x3FFFF ∧ 0x3FFFF < S0.cfg.memSize) ∧
    ((opd S0 0x3FFFE#32 0#32 0#32 0#32).ops.a.toNat = 0x3FFFE ∧ 0x3FFFE < S0.cfg.memSize ∧
      0x3FFFE % 2 = 0) := by decide

/-- The first address above memory, and the MMR1 hole of the I/O page. -/
theorem witness_RouteToNothingIsNxm :
    ((opd S0 0x40000#32 0#32 0#32 0#32).ops.a.toNat = 0x40000 ∧ 0x40000 < 2 ^ S0.cfg.paw.bits ∧
      0x40000 % 2 = 0 ∧ S0.cfg.memSize ≤ 0x40000 ∧ 0x40000 < 2 ^ S0.cfg.paw.bits - 8192) ∧
    ((opd S0 0x3FFF7C#32 0#32 0#32 0#32).ops.a.toNat = 0x3FFF7C ∧ 0x3FFF7C < 2 ^ S0.cfg.paw.bits ∧
      0x3FFF7C % 2 = 0 ∧ S0.cfg.memSize ≤ 0x3FFF7C ∧
      ∀ w ∈ S0.windows, ¬ (w.base ≤ 0x3FFF7C ∧ 0x3FFF7C < w.limit)) := by decide

/-- The first address that does not exist, an odd one, and an odd one under ALIGN_DOWN. -/
theorem witness_RouteRefusesOrAlignsOddWords :
    2 ^ S0.cfg.paw.bits ≤ (opd S0 0x400000#32 0#32 0#32 0#32).ops.a.toNat ∧
    ((opd S0 0x3FFFFF#32 0#32 0#32 0#32).ops.a.toNat < 2 ^ S0.cfg.paw.bits ∧
      (opd S0 0x3FFFFF#32 0#32 0#32 0#32).ops.a.getLsbD 0 = true ∧
      S0.cfg.oddWordPolicy = .refuse) ∧
    ({ Config.default with oddWordPolicy := .alignDown } : Config).oddWordPolicy = .alignDown := by decide

/-- A device's window at the last address it holds. -/
theorem witness_RouteForwardsToTheDevice :
    let s := opd (S0.register 0#3 0 0 0x3FF900 0x3FF908 9#32 0#16) 0x3FF906#32 0#32 0#32 0#32
    s.Inv ∧ (⟨0x3FF900, 0x3FF908, 9#32⟩ : Window) ∈ s.windows ∧ (9#32 : DevId) ≠ 0xFFFFFFFF#32 ∧
    2 ^ s.cfg.paw.bits - 8192 ≤ s.ops.a.toNat ∧ 0x3FF900 ≤ s.ops.a.toNat ∧ s.ops.a.toNat < 0x3FF908 ∧
    s.ops.a.getLsbD 0 = false := by
  refine ⟨?_, ?_, ?_, ?_, ?_, ?_, ?_⟩
  · constructor <;> decide +kernel
  all_goals decide +kernel

/-- A page at its last block, mapped to memory, for a read and for a write; and the widening with translation off. -/
theorem witness_AccessMappedMemory :
    let s := opd (withDesc 2#6 ⟨0x100#16, 0x10#7, false, true, true, false⟩) 0x443E#32 0#32 0#32 0#32
    s.cfg.WF ∧ IsSlot 2#6 .kernel .instruction (s.ops.a.setWidth 16) ∧
    s.Maps 2#6 .read (s.ops.a.setWidth 16) 0x443E ∧ s.Maps 2#6 .write (s.ops.a.setWidth 16) 0x443E ∧
    0x443E < s.cfg.memSize ∧ s.ops.a.getLsbD 0 = false ∧
    (opd S0 0x1001#32 0#32 0#32 0#32).Maps 8#6 .write 0x1001#16 0x1001 := by decide +kernel

/-- A refused page and an odd word. -/
theorem witness_AccessFaultPostsItsTrap :
    let s := opd setup2 0x4440#32 0#32 0x1000#32 0#32
    let o := opd setup2 0x4141#32 0#32 0x1000#32 0#32
    let i := Instr.translate .kernel .instruction .read .word
    let t := result i { s with ops := { s.ops with b := s.ops.c } }
    let u := result i { o with ops := { o.ops with b := o.ops.c } }
    s.cfg.WF ∧ IsTrapSlot s.cfg .odd 1 ∧ IsTrapSlot s.cfg .mme 2 ∧
    (exec i { s with ops := { s.ops with b := s.ops.c } } = .next t ∧ t.answer = some (answerOf t) ∧
      (answerOf t).status = .pageLength) ∧
    (exec i { o with ops := { o.ops with b := o.ops.c } } = .next u ∧ u.answer = some (answerOf u) ∧
      (answerOf u).status = .oddAddress) := by
  refine ⟨?_, ?_, ?_, ⟨rfl, ?_, ?_⟩, rfl, ?_, ?_⟩ <;> decide +kernel

/-- A page that reaches memory, and, at 0xFF7C with translation off, the hole of the I/O page. -/
theorem witness_AccessRoutesTheTranslatedAddress :
    let i := Instr.translate .kernel .instruction .read .word
    let s := opd setup2 0x4140#32 0#32 0x1000#32 0#32
    let t := result i { s with ops := { s.ops with b := s.ops.c } }
    let u := result (.route .read .word) { t with ops := { s.ops with a := (answerOf t).q0 } }
    let s' := opd S0 0xFF7C#32 0#32 0x1000#32 0#32
    let t' := result i { s' with ops := { s'.ops with b := s'.ops.c } }
    let u' := result (.route .read .word) { t' with ops := { s'.ops with a := (answerOf t').q0 } }
    s.cfg.WF ∧ IsTrapSlot s.cfg .nxm 3 ∧
    (exec i { s with ops := { s.ops with b := s.ops.c } } = .next t ∧ t.answer = some (answerOf t) ∧
      (answerOf t).status = .ok ∧
      exec (.route .read .word) { t with ops := { s.ops with a := (answerOf t).q0 } } = .next u ∧
      u.answer = some (answerOf u) ∧ (answerOf u).status = .ok) ∧
    (exec i { s' with ops := { s'.ops with b := s'.ops.c } } = .next t' ∧ t'.answer = some (answerOf t') ∧
      (answerOf t').status = .ok ∧
      exec (.route .read .word) { t' with ops := { s'.ops with a := (answerOf t').q0 } } = .next u' ∧
      u'.answer = some (answerOf u') ∧ (answerOf u').status = .nxm) := by
  refine ⟨?_, ?_, ⟨rfl, ?_, ?_, rfl, ?_, ?_⟩, rfl, ?_, ?_, rfl, ?_, ?_⟩ <;> decide +kernel

/-- A whole level asked for at once; and 2 slots of which the first free run begins after an owned one. -/
theorem witness_DevRegisterAssignsTheLowestRun :
    let s := opd S0 0x3FF900#32 0x3FF908#32 9#32 0o264#32
    let s' := opd (S0.register 5#3 1 1 0x3FF900 0x3FF908 9#32 0o264#16) 0x3FF908#32 0x3FF910#32 7#32 0o304#32
    (s.cfg.WF ∧ s.ops.c ≠ 0xFFFFFFFF#32 ∧ s.ops.a.toNat < s.ops.b.toNat ∧ s.ops.b.toNat ≤ 2 ^ s.cfg.paw.bits ∧
      (32#6).toNat ≤ s.cfg.nslots ∧ (∀ w ∈ s.windows, s.ops.b.toNat ≤ w.base ∨ w.limit ≤ s.ops.a.toNat) ∧
      32#6 ≠ 0#6 ∧ 4 ≤ (4#3).toNat ∧ 0 + (32#6).toNat ≤ s.cfg.nslots ∧
      ∀ i < (32#6).toNat, s.ownerAt 4#3 (0 + i) = none) ∧
    (s'.ops.a.toNat < s'.ops.b.toNat ∧ (∀ w ∈ s'.windows, s'.ops.b.toNat ≤ w.base ∨ w.limit ≤ s'.ops.a.toNat) ∧
      (∀ i < (2#6).toNat, s'.ownerAt 5#3 (2 + i) = none) ∧ ∀ j < 2, ∃ i < (2#6).toNat, s'.ownerAt 5#3 (j + i) ≠ none) := by
  decide +kernel

/-- An empty window; the last byte of SR0's window; level 3, and level 4 with no run left. -/
theorem witness_DevRegisterFailsClosed :
    (opd S0 0x1000#32 0x1000#32 1#32 0#32).ops.b.toNat ≤ (opd S0 0x1000#32 0x1000#32 1#32 0#32).ops.a.toNat ∧
    (let s := opd S0 0x3FFF7B#32 0x3FFF7C#32 7#32 0#32
     s.ops.c ≠ 0xFFFFFFFF#32 ∧ s.ops.a.toNat < s.ops.b.toNat ∧ s.ops.b.toNat ≤ 2 ^ s.cfg.paw.bits ∧
     (0#6).toNat ≤ s.cfg.nslots ∧ ∃ w ∈ s.windows, s.ops.a.toNat < w.limit ∧ w.base < s.ops.b.toNat) ∧
    (let s := opd (S0.register 4#3 31 0 0x1000 0x1010 1#32 0o300#16) 0x1010#32 0x1020#32 7#32 0#32
     s.ops.c ≠ 0xFFFFFFFF#32 ∧ s.ops.a.toNat < s.ops.b.toNat ∧ s.ops.b.toNat ≤ 2 ^ s.cfg.paw.bits ∧
     (2#6).toNat ≤ s.cfg.nslots ∧ (∀ w ∈ s.windows, s.ops.b.toNat ≤ w.base ∨ w.limit ≤ s.ops.a.toNat) ∧ 2#6 ≠ 0#6 ∧
     (3#3).toNat < 4 ∧ ∀ k < 32, k + (2#6).toNat ≤ s.cfg.nslots → ∃ i < (2#6).toNat, s.ownerAt 4#3 (k + i) ≠ none) := by
  decide +kernel

/-- A device that owns slots 0 to 3 of level 5 and not slot 4; and the block itself. -/
theorem witness_DevUnregisterRemovesTheDevice :
    let s := opd twoDevices 9#32 0#32 0#32 0#32
    s.cfg.WF ∧ s.ops.a ≠ 0xFFFFFFFF#32 ∧ (3 < s.cfg.nslots ∧ s.ownerAt 5#3 3 = some s.ops.a) ∧
    ¬ (4 < s.cfg.nslots ∧ s.ownerAt 5#3 4 = some s.ops.a) ∧
    (opd twoDevices 0xFFFFFFFF#32 0#32 0#32 0#32).ops.a = 0xFFFFFFFF#32 := by decide +kernel

theorem witness_RegistryChangesOnlyByRegistration :
    exec .snapshot S0 = .next (result .snapshot S0) ∧
    (∀ l n, Instr.snapshot ≠ .devRegister l n) ∧ Instr.snapshot ≠ .devUnregister :=
  ⟨rfl, fun _ _ h => Instr.noConfusion h, by decide⟩

/-- SNAPSHOT, which meets every clause's conditions. -/
theorem witness_StateIsWrittenOnlyByItsCommands :
    exec .snapshot S0 = .next (result .snapshot S0) ∧ Instr.snapshot ≠ .dispatch ∧
    Instr.snapshot ≠ .reset ∧ (∀ p, Instr.snapshot ≠ .intReevaluate p) ∧ (∀ x, Instr.snapshot ≠ .route .write x) ∧
    ∀ m sp x, Instr.snapshot ≠ .access m sp .write x :=
  ⟨rfl, by decide, by decide, fun _ h => Instr.noConfusion h, fun _ h => Instr.noConfusion h,
    fun _ _ _ h => Instr.noConfusion h⟩

/-- A state with both marks and one without them, with a command to perform. -/
theorem witness_MarksDoNotInfluenceTheBlock :
    let s := cmd S0 0x20000006#32 0#32 0#32 0#32 0#32
    let s' := { s with refused := true, configError := true }
    s.eraseMarks = s'.eraseMarks ∧ s ≠ s' ∧ step s = .next (after s) := by
  refine ⟨rfl, ?_, rfl⟩
  decide +kernel

/-- A state with commands at its port that a step takes. -/
theorem witness_EveryStepKeepsTheInvariant :
    State.Inv busy ∧ step busy = .next (after busy) ∧ (after busy).answer = bare .ok := by
  refine ⟨witness_inv_busy, rfl, ?_⟩
  decide +kernel

/-- The two default choices of parameters, with any draw. -/
theorem witness_InvariantHoldsAtConstruction : Config.default.WF ∧ Config.legacy.WF := by decide

end Sys2Proof.Tests
end

section
/-! TRANSLATE with translation enabled: the first check that fails (40_pagetable R203 to R205, R209 to R211). -/

namespace Sys2Proof.Machine

/-- The cases of a translation exclude each other: whichever holds, its result is the translation's. -/
theorem translate_eq_of_transCase {s : State} {m : Mode} {sp : Space} {k : Kind} {w : Width} {va pc : Word}
    {r : State × Except TransFault Nat} (h : TransCase s m sp k w va pc r) : translate s m sp k w va pc = r := by
  have not_odd (ha : AlignedFor s w va) : ¬ (w = .word ∧ va.getLsbD 0 = true ∧ s.cfg.enforceOdd = true) := by
    rintro ⟨hw, hv, he⟩
    exact Bool.false_ne_true ((ha hw he).symm.trans hv)
  unfold translate
  cases h with
  | odd hw hv he => exact if_pos ⟨hw, hv, he⟩
  | disabled ha he => rw [if_neg (not_odd ha), if_pos he, widen_eq]
  | nonResident ha he hr => rw [if_neg (not_odd ha)]; simp [he, hr]
  | pageLength ha he hr hl => rw [if_neg (not_odd ha)]; simp [he, hr, (outOfLength_eq_true _ _).2 hl]
  | readOnly ha he hr hl hk hw => rw [if_neg (not_odd ha)]; simp [he, hr, (outOfLength_eq_false _ _).2 hl, hk, hw]
  | mapped ha he hr hl hw =>
    have hk : ¬ (k = .write ∧ (s.descAt (slotOf m sp va)).w = false) := fun ⟨hk, hx⟩ => by simp [hw hk] at hx
    rw [if_neg (not_odd ha)]
    simp [he, hr, (outOfLength_eq_false _ _).2 hl, hk, relocate_eq]

/-- A TRANSLATE that ends at a latched fault writes the fault record and answers the fault's status, its results 0. -/
theorem exec_translate_of_latch {s : State} {m : Mode} {sp : Space} {k : Kind} {x : Width} {reason : FaultReason}
    {slot : BitVec 6} {f : TransFault}
    (h : translate s m sp k x s.opA16 s.opB16 = (s.latch reason slot s.opB16, .error f)) :
    exec (.translate m sp k x) s = .next { s with
      fr := latchedRecord s reason slot s.opB16
      answer := some (Answer.bare f.status) } := by
  simp only [exec, execTranslate, h, finish, latch_eq]

/-- Settles O11: each failing check is a case of the translation, and that case latches its reason. -/
theorem translateEnabledFaults : Obligations.TranslateEnabledFaults := by
  unfold Obligations.TranslateEnabledFaults
  intro s m sp k x slot he halign hslot
  have ha : AlignedFor s x s.opA16 := fun hx ho => by
    rw [State.opA16, BitVec.getLsbD_setWidth, halign hx ho, Bool.and_false]
  obtain rfl : slot = slotOf m sp s.opA16 := (isSlot_iff _ _ _ _).1 hslot
  refine ⟨fun hr => ?_, fun hr hl => ?_, fun hr hl hk hw => ?_⟩
  · exact exec_translate_of_latch (translate_eq_of_transCase (.nonResident ha he hr))
  · exact exec_translate_of_latch (translate_eq_of_transCase (.pageLength ha he hr hl))
  · exact exec_translate_of_latch (translate_eq_of_transCase (.readOnly ha he hr hl hk hw))

end Sys2Proof.Machine
end

section
/-! TRAP_HIGHEST: the least set slot of the trap mask (41_trapunit R242, R243). -/

namespace Sys2Proof.Machine

/-- HighestPending answers a slot exactly when that slot is set and no lower one is (41_trapunit R242). -/
theorem highestPending_eq_some (s : State) (k : Nat) :
    s.highestPending = some k ↔
      k < 16 ∧ s.trapmask.getLsbD k = true ∧ ∀ j < k, s.trapmask.getLsbD j = false :=
  leastSet_eq_some s.trapmask k

/-- HighestPending answers nothing exactly for the empty mask (41_trapunit R242). -/
theorem highestPending_eq_none (s : State) : s.highestPending = none ↔ s.trapmask = 0#16 :=
  leastSet_eq_none s.trapmask

theorem exec_trapHighest_of_some {s : State} {k : Nat} (h : s.highestPending = some k) :
    exec .trapHighest s = .next { s with answer := some (Answer.results .ok (resultNat k) 0#32 0#32 0#32) } := by
  simp only [exec, execTrapHighest, h, finish]

theorem exec_trapHighest_of_none {s : State} (h : s.highestPending = none) :
    exec .trapHighest s = .next { s with answer := some (Answer.bare .none) } := by
  simp only [exec, execTrapHighest, h, finish]

/-- Settles O29: TRAP_HIGHEST reports HighestPending, which is the least set slot of the mask. -/
theorem trapHighestIsTheLeastSetSlot : Obligations.TrapHighestIsTheLeastSetSlot := by
  unfold Obligations.TrapHighestIsTheLeastSetSlot
  intro s
  refine ⟨fun hempty => ?_, fun k hk hset hlow => ?_⟩
  · exact exec_trapHighest_of_none ((highestPending_eq_none s).2 hempty)
  · exact exec_trapHighest_of_some ((highestPending_eq_some s k).2 ⟨hk, hset, hlow⟩)

end Sys2Proof.Machine
end

section
/-! INT_REEVALUATE and INT_ACK: the priority stored and answered, and the device request taken (42_interrupts R284 to
R291). -/

namespace Sys2Proof.Machine

/-- One bit as a result value (30_encoding R126). -/
theorem setWidth_ofBool_eq_ite (b : Bool) : (BitVec.ofBool b).setWidth 32 = if b = true then 1#32 else 0#32 := by
  cases b <;> rfl

/-- INT_REEVALUATE writes the priority and the trap mask, and answers bit 15 (42_interrupts R284, R285). -/
theorem exec_intReevaluate (s : State) (p : Level) :
    exec (.intReevaluate p) s = .next { s with
      iplShadow := p, trapmask := (s.reevaluate p).trapmask
      answer := some (Answer.results .ok (if (s.reevaluate p).trapmask.getLsbD 15 = true then 1#32 else 0#32)
        0#32 0#32 0#32) } := by
  rw [← setWidth_ofBool_eq_ite]
  rfl

/-- Settles O38: the next state is Reevaluate's, whose bit 15 is the aggregate condition. -/
theorem intReevaluateStoresThePriority : Obligations.IntReevaluateStoresThePriority := by
  unfold Obligations.IntReevaluateStoresThePriority
  intro s p
  exact ⟨_, exec_intReevaluate s p, rfl, reevaluate_bit15 s p, reevaluate_other_bits s p, rfl⟩

/-- Acknowledge takes a device request in range, whatever software requests stand (42_interrupts R286, R290). -/
theorem acknowledge_of_deviceRequest {s : State} {p l : Level} {k : Nat} (h : s.deviceRequest p = some (l, k)) :
    s.acknowledge p =
      (s.setPend l (clearBit (s.pendAt l) k), some ⟨s.vecAt l k, l, some (BitVec.ofNat 5 k)⟩) := by
  simp only [State.acknowledge, h]

/-- The answer for a device request names its slot by index (42_interrupts R288). -/
theorem ackAnswer_device (v : Word) (l : Level) (k : Fin 32) :
    ackAnswer ⟨v, l, some (BitVec.ofNat 5 k.val)⟩ =
      Answer.results .ok (v.setWidth 32) (l.setWidth 32) (BitVec.ofNat 32 k.val) 0#32 := by
  have hk : (BitVec.ofNat 5 k.val).setWidth 32 = BitVec.ofNat 32 k.val := by
    rw [BitVec.setWidth_ofNat_of_le_of_lt (by decide) k.isLt]
  simp only [ackAnswer, result16, hk]

/-- INT_ACK with a device request above its IPL clears that request and re-evaluates at the shadow priority
(42_interrupts R288). -/
theorem exec_intAck_of_deviceRequest {s : State} {p l : Level} {k : Fin 32}
    (h : s.deviceRequest p = some (l, k.val)) :
    exec (.intAck p) s = .next {
      (s.setPend l (clearBit (s.pendAt l) k.val)).reevaluate s.iplShadow with
      answer := some (Answer.results .ok ((s.vecAt l k.val).setWidth 32) (l.setWidth 32) (BitVec.ofNat 32 k.val)
        0#32) } := by
  rw [← ackAnswer_device]
  simp only [exec, execIntAck, acknowledge_of_deviceRequest h, finish_answer, State.setPend_iplShadow]

/-- Settles O39: the scan finds the highest level and its lowest slot, and Acknowledge clears that one bit. -/
theorem intAckTakesTheDeviceRequest : Obligations.IntAckTakesTheDeviceRequest := by
  unfold Obligations.IntAckTakesTheDeviceRequest
  intro s p l k hp hhigh hset hlow
  have hd : s.deviceRequest p = some (l, k.val) := deviceRequest_eq_some hp hhigh hset hlow
  exact ⟨_, exec_intAck_of_deviceRequest hd, fun l' j _ => getLsbD_pendAt_clearBit s l l' k.val j,
    reevaluate_bit15 _ _, reevaluate_other_bits _ _, rfl⟩

end Sys2Proof.Machine
end

section
/-! DEV_REGISTER that succeeds: the registration is well formed, and the lowest run of free slots is assigned (43_bus
R330 to R332). -/

namespace Sys2Proof.Machine

/-- No registered window overlaps a new one exactly when each ends before it or begins after it (43_bus R331). -/
theorem any_overlaps_eq_false (ws : List Window) (base limit : Nat) :
    ws.any (overlaps base limit) = false ↔ ∀ w ∈ ws, limit ≤ w.base ∨ w.limit ≤ base := by
  rw [List.any_eq_false]
  refine forall₂_congr fun w _ => ?_
  rw [overlaps_iff]
  omega

/-- DEV_REGISTER that asks for no slot answers 0 (43_bus R330). -/
@[simp] theorem firstSlot_zero (s : State) (l : Level) : s.firstSlot l 0 = some 0 := if_pos rfl

/-- The first slot is the least start of a run of free slots at a level that has slots (43_bus R332). -/
theorem firstSlot_eq_some_of_leastRun {s : State} {l : Level} {n k : Nat} (hn : n ≠ 0) (hl : 4 ≤ l.toNat)
    (hk : k + n ≤ s.cfg.nslots) (hfree : ∀ i < n, s.ownerAt l (k + i) = none)
    (hleast : ∀ j < k, ∃ i < n, s.ownerAt l (j + i) ≠ none) : s.firstSlot l n = some k := by
  have hcap : slotCapacity s.cfg l = s.cfg.nslots := if_pos hl
  have hrun : s.freeRun l n = some k := by
    refine (freeRun_eq_some s l n k).2 ⟨⟨hcap ▸ hk, hfree⟩, fun j hj ⟨_, hfreeJ⟩ => ?_⟩
    obtain ⟨i, hi, howned⟩ := hleast j hj
    exact howned (hfreeJ i hi)
  rw [State.firstSlot, if_neg hn, hrun]

/-- A registration that passes every check registers the device from its first slot on and answers that slot
(43_bus R330). -/
theorem exec_devRegister_of_firstSlot {s : State} {l : Level} {n : BitVec 6} {k : Nat} (hdev : s.opCDev ≠ BLOCK)
    (hwindow : s.opAAddr < s.opBAddr) (htop : s.opBAddr ≤ s.cfg.physTop) (hcount : n.toNat ≤ s.cfg.nslots)
    (hdisjoint : s.windows.any (overlaps s.opAAddr s.opBAddr) = false) (hfirst : s.firstSlot l n.toNat = some k) :
    exec (.devRegister l n) s = .next {
      s.register l n.toNat k s.opAAddr s.opBAddr s.opCDev s.opD16 with
      answer := some (Answer.results .ok (resultNat k) 0#32 0#32 0#32) } := by
  have hlegal : ¬ (s.opCDev = BLOCK ∨ s.opBAddr ≤ s.opAAddr ∨ s.cfg.physTop < s.opBAddr ∨
      s.cfg.nslots < n.toNat) := by
    simp only [not_or, Nat.not_le, Nat.not_lt]
    exact ⟨hdev, hwindow, htop, hcount⟩
  simp only [exec, execDevRegister, if_neg hlegal, hdisjoint, hfirst, Bool.false_eq_true, if_false, finish_answer]

/-- A registration assigns no slot at levels 0 to 3, which have none (10_state R42). -/
theorem not_assigned_of_low {l l' : Level} {n k j : Nat} (hslots : n ≠ 0 → 4 ≤ l.toNat) (hl' : l'.toNat < 4) :
    ¬ (l' = l ∧ k ≤ j ∧ j < k + n) := by
  rintro ⟨rfl, hkj, hj⟩
  have := hslots (by omega)
  omega

/-- The owner of a slot of any level after a registration (43_bus R330). -/
theorem ownerAt_register_of_slots (s : State) {l : Level} {n : Nat} (hslots : n ≠ 0 → 4 ≤ l.toNat)
    (k base limit : Nat) (dev : DevId) (vbase : Word) (l' : Level) {j : Nat} (hj : j < 32) :
    (s.register l n k base limit dev vbase).ownerAt l' j =
      if l' = l ∧ k ≤ j ∧ j < k + n then some dev else s.ownerAt l' j := by
  by_cases hl' : 4 ≤ l'.toNat
  · exact ownerAt_register s l n k base limit dev vbase l' j hl' hj
  · have hlow : l'.toNat < 4 := Nat.lt_of_not_le hl'
    rw [if_neg (not_assigned_of_low hslots hlow), ownerAt_low _ _ _ hlow, ownerAt_low _ _ _ hlow]

/-- The vector of a slot of any level after a registration (43_bus R330). -/
theorem vecAt_register_of_slots (s : State) {l : Level} {n : Nat} (hslots : n ≠ 0 → 4 ≤ l.toNat)
    (k base limit : Nat) (dev : DevId) (vbase : Word) (l' : Level) {j : Nat} (hj : j < 32) :
    (s.register l n k base limit dev vbase).vecAt l' j =
      if l' = l ∧ k ≤ j ∧ j < k + n then vbase + BitVec.ofNat 16 (4 * (j - k)) else s.vecAt l' j := by
  by_cases hl' : 4 ≤ l'.toNat
  · exact vecAt_register s l n k base limit dev vbase l' j hl' hj
  · have hlow : l'.toNat < 4 := Nat.lt_of_not_le hl'
    rw [if_neg (not_assigned_of_low hslots hlow), vecAt_low _ _ _ hlow, vecAt_low _ _ _ hlow]

/-- Settles O51: the least start of a run of free slots is the first slot, and the registration assigns from it. -/
theorem devRegisterAssignsTheLowestRun : Obligations.DevRegisterAssignsTheLowestRun := by
  unfold Obligations.DevRegisterAssignsTheLowestRun
  intro s l n k _ hdev hwindow htop hcount hdisjoint hzero hrun
  have hne : n.toNat ≠ 0 ↔ n ≠ 0#6 := BitVec.toNat_ne_iff_ne (x := n) (y := 0#6)
  have hslots (h : n.toNat ≠ 0) : 4 ≤ l.toNat := (hrun (hne.1 h)).1
  have hfirst : s.firstSlot l n.toNat = some k := by
    by_cases hn : n = 0#6
    · rw [hzero hn, hn]
      exact firstSlot_zero s l
    · obtain ⟨hl, hk, hfree, hleast⟩ := hrun hn
      exact firstSlot_eq_some_of_leastRun (hne.2 hn) hl hk hfree hleast
  have hclear := (any_overlaps_eq_false s.windows s.opAAddr s.opBAddr).2 hdisjoint
  exact ⟨_, exec_devRegister_of_firstSlot hdev hwindow htop hcount hclear hfirst, rfl,
    fun l' _ hj => ownerAt_register_of_slots s hslots k s.opAAddr s.opBAddr s.opCDev s.opD16 l' hj,
    fun l' _ hj => vecAt_register_of_slots s hslots k s.opAAddr s.opBAddr s.opCDev s.opD16 l' hj, rfl⟩

end Sys2Proof.Machine
end

section
/-! ROUTE of a built-in register: its window, and what a word read and a word write do (43_bus R320, R322;
44_register_surface R360). -/

namespace Sys2Proof.Machine

/-- A register stands in a built-in window (10_state R48 to R56). -/
theorem builtinWindow_of_regAt (c : Config) {off : Nat} {r : Reg} (h : regAt off = some r) :
    ∃ w ∈ builtinWindows c, w.base ≤ c.ioPageBase + off ∧ c.ioPageBase + off < w.limit := by
  have hoff : (0o12200 ≤ off ∧ off < 0o12400) ∨ (0o17600 ≤ off ∧ off < 0o17700) ∨ off = 0o17572 ∨ off = 0o17576 ∨
      off = 0o12516 ∨ off = 0o17772 ∨ off = 0o17756 := by
    unfold regAt at h
    split_ifs at h <;> omega
  simp only [builtinWindows, List.mem_cons, List.not_mem_nil, or_false, exists_eq_or_imp, exists_eq_left]
  omega

/-- A ROUTE whose access succeeds leaves the access's state and answers its value (43_bus R320). -/
theorem exec_route_of_ok {s t : State} {k : Kind} {x : Width} {v : Word} (hpa : s.opAAddr < s.cfg.physTop)
    (h : route s k x s.opAAddr s.opB16 = .ok t v) :
    exec (.route k x) s = .next { t with answer := some ⟨.ok, v.setWidth 32, 0#32, 0#32, 0#32, none⟩ } := by
  simp only [exec, execRoute, if_neg (Nat.not_le.2 hpa), h, finish_answer, Answer.results, result16]

/-- A ROUTE to an address in a built-in window is a register access at the address's offset (43_bus R322). -/
theorem exec_route_of_builtin {s t : State} (hi : s.Inv) {w : Window} (hw : w ∈ builtinWindows s.cfg) {k : Kind}
    {x : Width} {off : Nat} {v : Word} (ha : s.AddressesRegister off) (hlow : w.base ≤ s.cfg.ioPageBase + off)
    (hhigh : s.cfg.ioPageBase + off < w.limit) (hx : x = .word → off % 2 = 0)
    (h : s.regAccess k x off s.opB16 = .ok t v) :
    exec (.route k x) s = .next { t with answer := some ⟨.ok, v.setWidth 32, 0#32, 0#32, 0#32, none⟩ } := by
  have hpa : s.opAAddr = s.cfg.ioPageBase + off := ha
  obtain ⟨-, hlimit, -, -⟩ := builtinWindows_bounds hw
  have htop : s.cfg.ioPageBase + 8192 = s.cfg.physTop := ioPageBase_add s.cfg
  refine exec_route_of_ok (by omega) ?_
  rw [hpa, route_register hi hw k x _ hlow hhigh hx, h]

section
variable {s : State} {off : Nat} {r : Reg}

/-- A word ROUTE read of a register answers RegRead and changes nothing else. -/
theorem exec_route_readRegister (hi : s.Inv) (ha : s.AddressesRegister off) (hr : regAt off = some r)
    (heven : off % 2 = 0) :
    exec (.route .read .word) s = .next { s with
      answer := some ⟨.ok, (s.regRead r).setWidth 32, 0#32, 0#32, 0#32, none⟩ } := by
  obtain ⟨w, hw, hlow, hhigh⟩ := builtinWindow_of_regAt s.cfg hr
  exact exec_route_of_builtin hi hw ha hlow hhigh (fun _ => heven) (regAccess_read hr heven _)

/-- A word ROUTE write of a register leaves RegWrite's state and answers OK. -/
theorem exec_route_writeRegister (hi : s.Inv) (ha : s.AddressesRegister off) (hr : regAt off = some r)
    (heven : off % 2 = 0) :
    exec (.route .write .word) s = .next { s.regWrite r s.opB16 with
      answer := some ⟨.ok, 0#32, 0#32, 0#32, 0#32, none⟩ } := by
  obtain ⟨w, hw, hlow, hhigh⟩ := builtinWindow_of_regAt s.cfg hr
  exact exec_route_of_builtin hi hw ha hlow hhigh (fun _ => heven) (regAccess_write hr heven _)

end

/-- The write data of ROUTE is the low half of operand B (30_encoding R125). -/
theorem getLsbD_opB16 (s : State) {i : Nat} (h : i < 16) : s.opB16.getLsbD i = s.ops.b.getLsbD i := by
  rw [State.opB16, BitVec.getLsbD_setWidth, decide_eq_true h, Bool.true_and]

end Sys2Proof.Machine
end

section
/-! SR0, SR2 and SR3 (44_register_surface R361 to R366). -/

namespace Sys2Proof.Machine

/-- The bits of SR0 beside the slot (10_state R48): the fault reason in 15:13, zeros in 12:7, ENABLE in 0. -/
theorem readSr0_reason_and_enable (s : State) :
    s.readSr0.getLsbD 15 = decide (s.fr.reason = .nonResident) ∧
    s.readSr0.getLsbD 14 = decide (s.fr.reason = .pageLength) ∧
    s.readSr0.getLsbD 13 = decide (s.fr.reason = .readOnly) ∧ s.readSr0.getLsbD 0 = s.enable := by
  simp only [State.readSr0, BitVec.getLsbD_append]
  simp

theorem extractLsb'_readSr0_zeros (s : State) : s.readSr0.extractLsb' 7 6 = 0#6 := by
  simp (disch := decide) only [State.readSr0, BitVec.extractLsb'_append_eq_of_le,
    BitVec.extractLsb'_append_eq_of_add_le, Nat.reduceSub, BitVec.extractLsb'_zero]

/-- SR0 shows the record's slot in bits 6:1, so each field of the slot one bit higher (10_state R48). -/
theorem extractLsb'_readSr0_slot (s : State) {start len : Nat} (h : start + len ≤ 6) :
    s.readSr0.extractLsb' (start + 1) len = s.fr.slot.extractLsb' start len := by
  unfold State.readSr0
  rw [BitVec.extractLsb'_append_eq_of_le (by omega), Nat.add_sub_cancel, BitVec.extractLsb'_append_eq_of_add_le h]

/-- Settles O17: a read is RegRead, whose bits are the record's reason and slot and ENABLE. -/
theorem sr0ReadShowsRecordAndEnable : Obligations.Sr0ReadShowsRecordAndEnable := by
  unfold Obligations.Sr0ReadShowsRecordAndEnable
  intro s hi ha
  obtain ⟨hnonResident, hpageLength, hreadOnly, henable⟩ := readSr0_reason_and_enable s
  have hspace : s.readSr0.getLsbD 4 = s.fr.slot.getLsbD 3 := by
    rw [BitVec.getLsbD_eq_extractLsb', extractLsb'_readSr0_slot s (by decide), ← BitVec.getLsbD_eq_extractLsb']
  exact ⟨s.readSr0, exec_route_readRegister hi ha (r := .sr0) rfl rfl, hnonResident, hpageLength, hreadOnly,
    extractLsb'_readSr0_zeros s, extractLsb'_readSr0_slot s (by decide), hspace,
    extractLsb'_readSr0_slot s (by decide), henable⟩

/-- What an SR0 write leaves (44_register_surface R362). -/
theorem writeSr0_eq (s : State) (v : Word) :
    s.writeSr0 v = { s with
      enable := v.getLsbD 0
      fr := if v.extractLsb' 13 3 = 0#3 then FaultRecord.empty else s.fr } := by
  unfold State.writeSr0
  by_cases h : v.extractLsb' 13 3 = 0#3
  · rw [if_pos h, if_pos h]; rfl
  · rw [if_neg h, if_neg h]

/-- Settles O18: the next state is RegWrite's. -/
theorem sr0WriteSetsEnableAndClears : Obligations.Sr0WriteSetsEnableAndClears := by
  unfold Obligations.Sr0WriteSetsEnableAndClears
  rintro s v hi ha rfl
  rw [exec_route_writeRegister hi ha (r := .sr0) rfl rfl, State.regWrite, writeSr0_eq]
  rfl

/-- Settles O19: RegRead of SR2 is the record's PC, and RegWrite leaves the state (44_register_surface R364). -/
theorem sr2ReadsPcIgnoresWrites : Obligations.Sr2ReadsPcIgnoresWrites := by
  unfold Obligations.Sr2ReadsPcIgnoresWrites
  intro s hi ha
  exact ⟨exec_route_readRegister hi ha rfl rfl, exec_route_writeRegister hi ha rfl rfl⟩

/-- SR3 shows EXT in bit 4; at PAW = 18 the invariant makes EXT 0 (10_state R38). -/
theorem setWidth_readSr3 {s : State} (hi : s.Inv) :
    s.readSr3.setWidth 32 = if s.ext = true then 0x10#32 else 0#32 := by
  have hext : (s.ext && decide (s.cfg.paw = .extended22)) = s.ext := by
    cases hp : s.cfg.paw with
    | legacy18 => simp [hi.extHardwired hp]
    | extended22 => simp
  unfold State.readSr3
  rw [hext]
  cases s.ext <;> rfl

/-- What an SR3 write leaves (44_register_surface R366). -/
theorem writeSr3_eq (s : State) (v : Word) :
    s.writeSr3 v = { s with ext := if s.cfg.paw = .extended22 then v.getLsbD 4 else s.ext } := by
  unfold State.writeSr3
  by_cases h : s.cfg.paw = .extended22
  · rw [if_pos h, if_pos h]
  · rw [if_neg h, if_neg h]

/-- Settles O20: SR3 reads and writes EXT, which the invariant hardwires to 0 at PAW = 18. -/
theorem sr3HoldsExt : Obligations.Sr3HoldsExt := by
  unfold Obligations.Sr3HoldsExt
  intro s hi ha
  refine ⟨?_, ?_, hi.extHardwired⟩
  · rw [exec_route_readRegister hi ha (r := .sr3) rfl rfl, State.regRead, setWidth_readSr3 hi]
  · rw [exec_route_writeRegister hi ha (r := .sr3) rfl rfl, State.regWrite, writeSr3_eq, getLsbD_opB16 s (by decide)]

end Sys2Proof.Machine
end

section
/-! The descriptor registers PDR and PAR (44_register_surface R367 to R370). -/

namespace Sys2Proof.Machine

/-- The descriptor registers begin at an even offset (10_state R51). -/
theorem descriptorBase_even {m : Mode} {base : Nat} (h : descriptorBase m = some base) : base % 2 = 0 := by
  cases m <;> simp only [descriptorBase, Option.some.injEq, reduceCtorEq] at h <;> subst h <;> rfl

/-- A slot is given by its number (10_state R35). -/
theorem eq_slot_of_toNat {slot : BitVec 6} {m : Mode} {sp : Space} {p : BitVec 3}
    (h : slot.toNat = 16 * modeNumber m + 8 * spaceNumber sp + p.toNat) : slot = m.code ++ sp.code ++ p :=
  BitVec.eq_of_toNat_eq (h.trans (toNat_slot m sp p).symm)

/-- The single bits of a PDR word (10_state R51): the dirty bit in 6, ED in 3, WRITABLE in 2, READABLE in 1, and the
zeros 15, 7 and 0. -/
theorem readPdr_bits (d : Desc) :
    d.readPdr.getLsbD 15 = false ∧ d.readPdr.getLsbD 7 = false ∧ d.readPdr.getLsbD 6 = d.wr ∧
    d.readPdr.getLsbD 3 = d.ed ∧ d.readPdr.getLsbD 2 = d.w ∧ d.readPdr.getLsbD 1 = d.r ∧
    d.readPdr.getLsbD 0 = false := by
  simp only [Desc.readPdr, BitVec.getLsbD_append]
  simp

theorem extractLsb'_readPdr_plf (d : Desc) : d.readPdr.extractLsb' 8 7 = d.plf := by
  simp (disch := decide) only [Desc.readPdr, BitVec.extractLsb'_append_eq_of_le,
    BitVec.extractLsb'_append_eq_of_add_le, Nat.reduceSub, BitVec.extractLsb'_eq_self]

theorem extractLsb'_readPdr_zeros (d : Desc) : d.readPdr.extractLsb' 4 2 = 0#2 := by
  simp (disch := decide) only [Desc.readPdr, BitVec.extractLsb'_append_eq_of_le,
    BitVec.extractLsb'_append_eq_of_add_le, Nat.reduceSub, BitVec.extractLsb'_zero]

/-- Settles O21: the offset names the slot's PDR, which reads and writes as readPdr and writePdr. -/
theorem pdrReadsAndWrites : Obligations.PdrReadsAndWrites := by
  unfold Obligations.PdrReadsAndWrites
  rintro s m sp p base slot v hi hbase ha hslot rfl
  obtain rfl := eq_slot_of_toNat hslot
  have heven := descriptorBase_even hbase
  have hreg := regAt_pdr hbase sp p
  obtain ⟨h15, h7, hwr, hed, hw, hr, h0⟩ := readPdr_bits (s.descAt (m.code ++ sp.code ++ p))
  exact ⟨⟨_, exec_route_readRegister hi ha hreg (by omega), h15, extractLsb'_readPdr_plf _, h7, hwr,
      extractLsb'_readPdr_zeros _, hed, hw, hr, h0⟩,
    exec_route_writeRegister hi ha hreg (by omega)⟩

/-- Settles O22: the offset names the slot's PAR, which reads PAF and writes as writePar. -/
theorem parReadsAndWrites : Obligations.ParReadsAndWrites := by
  unfold Obligations.ParReadsAndWrites
  intro s m sp p base slot hi hbase ha hslot
  obtain rfl := eq_slot_of_toNat hslot
  have heven := descriptorBase_even hbase
  have hreg := regAt_par hbase sp p
  exact ⟨exec_route_readRegister hi ha hreg (by omega), exec_route_writeRegister hi ha hreg (by omega)⟩

end Sys2Proof.Machine
end

section
/-! PIRQ and TRAPCLR (44_register_surface R374 to R378). -/

namespace Sys2Proof.Machine

/-- The fields of PIRQ (10_state R54): the request bits in 15:9, and PIA in 7:5 and again in 3:1. -/
theorem readPirq_fields (s : State) :
    s.readPirq.extractLsb' 9 7 = s.pirq ∧ s.readPirq.extractLsb' 5 3 = s.pia ∧ s.readPirq.extractLsb' 1 3 = s.pia := by
  refine ⟨?_, ?_, ?_⟩ <;>
    simp (disch := decide) only [State.readPirq, BitVec.extractLsb'_append_eq_of_le,
      BitVec.extractLsb'_append_eq_of_add_le, Nat.reduceSub, BitVec.extractLsb'_eq_self]

theorem readPirq_zeros (s : State) :
    s.readPirq.getLsbD 8 = false ∧ s.readPirq.getLsbD 4 = false ∧ s.readPirq.getLsbD 0 = false := by
  simp only [State.readPirq, BitVec.getLsbD_append]
  simp

/-- The request bit of a level in a PIRQ word: level `L` is bit `8 + L` (10_state R54). -/
theorem getLsbD_requestBits (v : Word) {l : Level} (hl : l ≠ 0#3) :
    (v.extractLsb' 9 7).getLsbD (l.toNat - 1) = v.getLsbD (8 + l.toNat) := by
  have hpos : l.toNat ≠ 0 := fun h => hl (BitVec.eq_of_toNat_eq h)
  have hlt := l.isLt
  rw [BitVec.getLsbD_extractLsb', decide_eq_true (by omega), Bool.true_and]
  congr 1
  omega

/-- Settles O23: PIRQ shows the request bits and PIA, which is the highest requested level. -/
theorem pirqReadShowsRequestsAndPia : Obligations.PirqReadShowsRequestsAndPia := by
  unfold Obligations.PirqReadShowsRequestsAndPia
  intro s hi ha
  obtain ⟨hreq, hpia, hpia'⟩ := readPirq_fields s
  obtain ⟨h8, h4, h0⟩ := readPirq_zeros s
  refine ⟨s.readPirq, s.pia, exec_route_readRegister hi ha (r := .pirq) rfl rfl, fun l hl => ?_, h8, hpia, h4, hpia', h0,
    fun l hl => ?_, fun hl => ?_⟩
  · rw [← getLsbD_requestBits _ hl, hreq]
  · have hne : l ≠ 0#3 := by rintro rfl; exact BitVec.not_lt_zero hl
    rw [← pirqAt_of_ne_zero s l hne, pia_none_above s l hl]
  · rw [← pirqAt_of_ne_zero s _ hl, pia_requested s hl]

/-- Settles O24: the write sets the request bits, and its Reevaluate bit 15 alone of the trap mask. -/
theorem pirqWriteReevaluates : Obligations.PirqWriteReevaluates := by
  unfold Obligations.PirqWriteReevaluates
  intro s hi ha
  refine ⟨_, exec_route_writeRegister hi ha (r := .pirq) rfl rfl, fun l hl => ?_, ?_, fun j hj => ?_, rfl⟩
  · simp only [State.regWrite, State.writePirq_pirq]
    rw [getLsbD_requestBits _ hl, getLsbD_opB16 s (by omega)]
  · exact reevaluate_bit15 { s with pirq := s.opB16.extractLsb' 9 7 } s.iplShadow
  · exact reevaluate_other_bits { s with pirq := s.opB16.extractLsb' 9 7 } s.iplShadow j hj

/-- Settles O25: the write is ClearPersistent of the written mask. -/
theorem trapclrReadsAndClearsPersistent : Obligations.TrapclrReadsAndClearsPersistent := by
  unfold Obligations.TrapclrReadsAndClearsPersistent
  intro s hi ha
  refine ⟨exec_route_readRegister hi ha (r := .trapclr) rfl rfl, _,
    exec_route_writeRegister hi ha (r := .trapclr) rfl rfl, fun k => ?_, ?_, rfl⟩
  · have hpersist : s.cfg.persistSet.any (fun j => j.val == k.val) = decide (k ∈ s.cfg.persistSet) := by
      simp [Fin.val_inj, List.any_eq]
    exact (getLsbD_clearPersistent _ _ _ _).trans (by rw [hpersist, getLsbD_opB16 s (by omega)])
  · exact getLsbD_clearPersistent_15 _ _ _

end Sys2Proof.Machine
end

section
/-! Byte reads of a built-in register (44_register_surface R371). -/

namespace Sys2Proof.Machine

/-- The invariant says nothing of the latched operands (log 5). -/
theorem State.Inv.withOps {s : State} (hi : s.Inv) (o : Operands) : ({ s with ops := o } : State).Inv :=
  ⟨hi.params, hi.memForm, hi.memInstalled, hi.windowBounds, hi.windowsApart, hi.builtinPresent, hi.builtinOnly,
    hi.slotsExist, hi.freeVector, hi.pendOwned, hi.modeTwo, hi.extHardwired, hi.recordEmpty, hi.aggregateFresh⟩

/-- A register does not show the latched operands. -/
theorem regRead_withOps (s : State) (o : Operands) (r : Reg) : ({ s with ops := o } : State).regRead r = s.regRead r := by
  cases r <;> rfl

/-- An address in a built-in window is an offset of the I/O page whose even offset names a register (10_state R56). -/
theorem register_of_addressesBuiltin {s : State} (hi : s.Inv) (h : s.AddressesBuiltin) :
    ∃ off r, ∃ w ∈ builtinWindows s.cfg, s.AddressesRegister off ∧ w.base ≤ s.cfg.ioPageBase + off ∧
      s.cfg.ioPageBase + off < w.limit ∧ regAt (off - off % 2) = some r := by
  obtain ⟨w, hmem, hdev, hlow, hhigh⟩ := h
  have hw := hi.builtinOnly w hmem hdev
  obtain ⟨hbase, -, -, hnames⟩ := builtinWindows_bounds hw
  obtain ⟨off, hoff⟩ := Nat.exists_eq_add_of_le (hbase.trans hlow)
  rw [hoff] at hlow hhigh
  obtain ⟨r, hr⟩ := Option.isSome_iff_exists.1 (hnames off hlow hhigh)
  exact ⟨off, r, w, hw, hoff, hlow, hhigh, hr⟩

/-- The even address of a register's byte addresses the register's word: the I/O page begins at an even address. -/
theorem addressesRegister_even {s : State} {off : Nat} (ha : s.AddressesRegister off) (b c d : Word32) :
    ({ s with ops := ⟨BitVec.ofNat 32 (s.ops.a.toNat - s.ops.a.toNat % 2), b, c, d⟩ } : State).AddressesRegister
      (off - off % 2) := by
  have ha' : s.ops.a.toNat = s.cfg.ioPageBase + off := ha
  have heven := ioPageBase_even s.cfg
  have hlt := s.ops.a.isLt
  change (BitVec.ofNat 32 (s.ops.a.toNat - s.ops.a.toNat % 2)).toNat = s.cfg.ioPageBase + (off - off % 2)
  rw [BitVec.toNat_ofNat, Nat.mod_eq_of_lt (by omega)]
  omega

/-- Bit 0 of the operand selects the lane (44_register_surface R371). -/
theorem laneRead_of_addressesRegister {s : State} {off : Nat} (ha : s.AddressesRegister off) (v : Word) :
    (laneRead (off % 2 == 1) v).setWidth 32 =
      (if s.ops.a.getLsbD 0 = true then v.extractLsb' 8 8 else v.extractLsb' 0 8).setWidth 32 := by
  have hodd : (off % 2 == 1) = s.ops.a.getLsbD 0 := by
    have ha' : s.ops.a.toNat = s.cfg.ioPageBase + off := ha
    have heven := ioPageBase_even s.cfg
    rw [BitVec.getLsbD, Nat.testBit_zero, ha', show (s.cfg.ioPageBase + off) % 2 = off % 2 by omega,
      Bool.beq_eq_decide_eq]
  rw [hodd, laneRead, BitVec.setWidth_setWidth (by decide)]

/-- Settles O26: both reads are of the one register that the even address names. -/
theorem registerByteReadIsALane : Obligations.RegisterByteReadIsALane := by
  unfold Obligations.RegisterByteReadIsALane
  rintro s e hi hbuiltin rfl
  obtain ⟨off, r, w, hw, ha, hlow, hhigh, hr⟩ := register_of_addressesBuiltin hi hbuiltin
  refine ⟨s.regRead r, ?_, ?_⟩
  · rw [exec_route_readRegister (hi.withOps _) (addressesRegister_even ha _ _ _) hr (by omega), regRead_withOps]
  · rw [exec_route_of_builtin (x := .byte) hi hw ha hlow hhigh nofun (regAccess_readByte hr _),
      laneRead_of_addressesRegister ha]

end Sys2Proof.Machine
end

section
/-! Encoding: the fields of an encoded command, the row a word decodes by, and the bits of a decoded command
(30_encoding R121 to R130). -/

namespace Sys2Proof

/-! ### Field codes -/

@[simp] theorem Mode.ofCode_code (m : Mode) : Mode.ofCode m.code = m := by cases m <;> rfl

@[simp] theorem Space.ofCode_code (sp : Space) : Space.ofCode sp.code = sp := by cases sp <;> rfl

@[simp] theorem Kind.ofCode_code (k : Kind) : Kind.ofCode k.code = k := by cases k <;> rfl

@[simp] theorem Width.ofCode_code (w : Width) : Width.ofCode w.code = w := by cases w <;> rfl

/-! ### The fields of an encoded command, by format (30_encoding R121, R122) -/

section
variable (op : BitVec 6) (m : Mode) (sp : Space) (k : Kind) (w : Width) (l : Level) (j : BitVec 5) (n : BitVec 6)
  (t : BitVec 4)

theorem fields_encodeMem :
    opField (encodeMem op m sp k w) = op ∧ modeField (encodeMem op m sp k w) = m ∧
    spaceField (encodeMem op m sp k w) = sp ∧ kindField (encodeMem op m sp k w) = k ∧
    widthField (encodeMem op m sp k w) = w := by
  simp (disch := decide) only [opField, modeField, spaceField, kindField, widthField, encodeMem,
    BitVec.extractLsb'_append_eq_of_le, BitVec.extractLsb'_append_eq_of_add_le, Nat.reduceSub,
    BitVec.extractLsb'_eq_self, Mode.ofCode_code, Space.ofCode_code, Kind.ofCode_code, Width.ofCode_code, and_self]

theorem fields_encodeBus :
    opField (encodeBus op k w) = op ∧ kindField (encodeBus op k w) = k ∧ widthField (encodeBus op k w) = w := by
  simp (disch := decide) only [opField, kindField, widthField, encodeBus, BitVec.extractLsb'_append_eq_of_le,
    BitVec.extractLsb'_append_eq_of_add_le, Nat.reduceSub, BitVec.extractLsb'_eq_self, Kind.ofCode_code,
    Width.ofCode_code, and_self]

theorem opField_encodeNone : opField (encodeNone op) = op := by
  simp (disch := decide) only [opField, encodeNone, BitVec.extractLsb'_append_eq_of_le, Nat.reduceSub,
    BitVec.extractLsb'_eq_self]

theorem fields_encodeTslot : opField (encodeTslot op t) = op ∧ tslotField (encodeTslot op t) = t := by
  simp (disch := decide) only [opField, tslotField, encodeTslot, BitVec.extractLsb'_append_eq_of_le,
    BitVec.extractLsb'_append_eq_of_add_le, Nat.reduceSub, BitVec.extractLsb'_eq_self, and_self]

theorem fields_encodeInt :
    opField (encodeInt op l j) = op ∧ levelField (encodeInt op l j) = l ∧ slotField (encodeInt op l j) = j := by
  simp (disch := decide) only [opField, levelField, slotField, encodeInt, BitVec.extractLsb'_append_eq_of_le,
    BitVec.extractLsb'_append_eq_of_add_le, Nat.reduceSub, BitVec.extractLsb'_eq_self, and_self]

theorem fields_encodeIpl : opField (encodeIpl op l) = op ∧ iplField (encodeIpl op l) = l := by
  simp (disch := decide) only [opField, iplField, encodeIpl, BitVec.extractLsb'_append_eq_of_le,
    BitVec.extractLsb'_append_eq_of_add_le, Nat.reduceSub, BitVec.extractLsb'_eq_self, and_self]

theorem fields_encodeReg :
    opField (encodeReg op l n) = op ∧ levelField (encodeReg op l n) = l ∧ countField (encodeReg op l n) = n := by
  simp (disch := decide) only [opField, levelField, countField, encodeReg, BitVec.extractLsb'_append_eq_of_le,
    BitVec.extractLsb'_append_eq_of_add_le, Nat.reduceSub, BitVec.extractLsb'_eq_self, and_self]

end

/-! ### The row of a command -/

/-- A command word is 0 in the bits that its format reserves (30_encoding R122, R128). -/
theorem reservedBitsZero (i : Instr) : Laws.ReservedBitsZero.Statement i := by
  cases i with
  | translate m sp k w => exact Laws.ReservedBitsZero.translate m sp k w
  | route k w => exact Laws.ReservedBitsZero.route k w
  | access m sp k w => exact Laws.ReservedBitsZero.access m sp k w
  | snapshot => exact Laws.ReservedBitsZero.snapshot
  | trapPost t => exact Laws.ReservedBitsZero.trapPost t
  | trapHighest => exact Laws.ReservedBitsZero.trapHighest
  | dispatch => exact Laws.ReservedBitsZero.dispatch
  | intRequest l j => exact Laws.ReservedBitsZero.intRequest l j
  | intCancel l j => exact Laws.ReservedBitsZero.intCancel l j
  | intReevaluate p => exact Laws.ReservedBitsZero.intReevaluate p
  | intAck p => exact Laws.ReservedBitsZero.intAck p
  | devRegister l n => exact Laws.ReservedBitsZero.devRegister l n
  | devUnregister => exact Laws.ReservedBitsZero.devUnregister
  | reset => exact Laws.ReservedBitsZero.reset

/-- A row of the opcode map by its place in the map. -/
def opRow (r : Fin 14) : OpRow := opcodeMap[r.val]'r.isLt

theorem opRow_mem (r : Fin 14) : opRow r ∈ opcodeMap := List.getElem_mem r.isLt

/-- A command word decodes to what the row of its OP builds. -/
theorem decode_encode_of_row {i : Instr} (r : Fin 14) (hop : opField (encode i) = (opRow r).op)
    (hbuild : (opRow r).build (encode i) = i) : decode (encode i) = .ok i := by
  obtain ⟨row, hrow, hrowOp, hreserved⟩ := reservedBitsZero i
  obtain rfl := List.inj_on_of_nodup_map opcodeMap_distinct hrow (opRow_mem r) (hrowOp.trans hop)
  exact (decode_eq_ok _ _).2 ⟨_, hrow, hrowOp, hreserved, hbuild⟩

/-- Settles O1: the word of a command has the OP of the command's row, which builds the command from its fields. -/
theorem decodeOfEncodeIsIdentity : Obligations.DecodeOfEncodeIsIdentity := by
  unfold Obligations.DecodeOfEncodeIsIdentity
  intro i
  cases i with
  | translate m sp k w =>
    obtain ⟨hop, hm, hsp, hk, hw⟩ := fields_encodeMem 0x01#6 m sp k w
    exact decode_encode_of_row 0 hop (congr (congr (congr (congrArg Instr.translate hm) hsp) hk) hw)
  | route k w =>
    obtain ⟨hop, hk, hw⟩ := fields_encodeBus 0x02#6 k w
    exact decode_encode_of_row 1 hop (congr (congrArg Instr.route hk) hw)
  | access m sp k w =>
    obtain ⟨hop, hm, hsp, hk, hw⟩ := fields_encodeMem 0x03#6 m sp k w
    exact decode_encode_of_row 2 hop (congr (congr (congr (congrArg Instr.access hm) hsp) hk) hw)
  | snapshot => exact decode_encode_of_row 3 (opField_encodeNone _) rfl
  | trapPost t =>
    obtain ⟨hop, ht⟩ := fields_encodeTslot 0x08#6 t
    exact decode_encode_of_row 4 hop (congrArg Instr.trapPost ht)
  | trapHighest => exact decode_encode_of_row 5 (opField_encodeNone _) rfl
  | dispatch => exact decode_encode_of_row 6 (opField_encodeNone _) rfl
  | intRequest l j =>
    obtain ⟨hop, hl, hj⟩ := fields_encodeInt 0x10#6 l j
    exact decode_encode_of_row 7 hop (congr (congrArg Instr.intRequest hl) hj)
  | intCancel l j =>
    obtain ⟨hop, hl, hj⟩ := fields_encodeInt 0x11#6 l j
    exact decode_encode_of_row 8 hop (congr (congrArg Instr.intCancel hl) hj)
  | intReevaluate p =>
    obtain ⟨hop, hp⟩ := fields_encodeIpl 0x12#6 p
    exact decode_encode_of_row 9 hop (congrArg Instr.intReevaluate hp)
  | intAck p =>
    obtain ⟨hop, hp⟩ := fields_encodeIpl 0x13#6 p
    exact decode_encode_of_row 10 hop (congrArg Instr.intAck hp)
  | devRegister l n =>
    obtain ⟨hop, hl, hn⟩ := fields_encodeReg 0x18#6 l n
    exact decode_encode_of_row 11 hop (congr (congrArg Instr.devRegister hl) hn)
  | devUnregister => exact decode_encode_of_row 12 (opField_encodeNone _) rfl
  | reset => exact decode_encode_of_row 13 (opField_encodeNone _) rfl

/-! ### Masks and matches (30_encoding R122, R123) -/

/-- The OP value of a command's row (30_encoding R123). -/
def Instr.op : Instr → BitVec 6
  | .translate _ _ _ _ => 0x01#6
  | .route _ _ => 0x02#6
  | .access _ _ _ _ => 0x03#6
  | .snapshot => 0x04#6
  | .trapPost _ => 0x08#6
  | .trapHighest => 0x09#6
  | .dispatch => 0x0A#6
  | .intRequest _ _ => 0x10#6
  | .intCancel _ _ => 0x11#6
  | .intReevaluate _ => 0x12#6
  | .intAck _ => 0x13#6
  | .devRegister _ _ => 0x18#6
  | .devUnregister => 0x19#6
  | .reset => 0x3F#6

/-- A row builds commands of its OP value. -/
theorem op_build {row : OpRow} (h : row ∈ opcodeMap) (w : Word32) : (row.build w).op = row.op := by
  simp only [opcodeMap, List.cons_append, List.nil_append, List.mem_cons, List.not_mem_nil, or_false] at h
  rcases h with rfl | rfl | rfl | rfl | rfl | rfl | rfl | rfl | rfl | rfl | rfl | rfl | rfl | rfl <;> rfl

/-- A word that decodes to a command of a row fits the row's mask and match. -/
theorem fits_of_decode (r : Fin 14) {w : Word32} {i : Instr} (h : decode w = .ok i)
    (hi : i.op = (opRow r).op) :
    w &&& (0xFC000000#32 ||| (opRow r).format.reserved) = (opRow r).op ++ 0#26 := by
  obtain ⟨row, hrow, hop, hreserved, rfl⟩ := (decode_eq_ok w i).1 h
  rw [op_build hrow] at hi
  obtain rfl := List.inj_on_of_nodup_map opcodeMap_distinct hrow (opRow_mem r) hi
  exact (mask_match _ _ _ (reserved_low _)).2 ⟨hop.symm, hreserved⟩

/-- A word that fits a row's mask and match decodes to what the row builds. -/
theorem decode_of_fits (r : Fin 14) {w : Word32}
    (h : w &&& (0xFC000000#32 ||| (opRow r).format.reserved) = (opRow r).op ++ 0#26) :
    decode w = .ok ((opRow r).build w) := by
  obtain ⟨hop, hreserved⟩ := (mask_match _ _ _ (reserved_low _)).1 h
  exact (decode_eq_ok _ _).2 ⟨_, opRow_mem r, hop.symm, hreserved, rfl⟩

/-- A row without fields has one word, its match: every other bit is reserved. -/
theorem eq_iff_decode (r : Fin 14) {i : Instr} (hi : i.op = (opRow r).op)
    (hmask : 0xFC000000#32 ||| (opRow r).format.reserved = BitVec.allOnes 32) (hbuild : ∀ w, (opRow r).build w = i)
    (w : Word32) : w = (opRow r).op ++ 0#26 ↔ decode w = .ok i := by
  have hw : w &&& (0xFC000000#32 ||| (opRow r).format.reserved) = w := by rw [hmask, BitVec.and_allOnes]
  constructor
  · intro h
    rw [decode_of_fits r (hw.trans h), hbuild]
  · intro h
    exact hw.symm.trans (fits_of_decode r h hi)

/-- Settles O2: each row decodes exactly the words that fit its mask and match. -/
theorem decodeSelectsExactlyTheMatchingRow : Obligations.DecodeSelectsExactlyTheMatchingRow := by
  unfold Obligations.DecodeSelectsExactlyTheMatchingRow
  intro w
  refine ⟨?translate, ?route, ?access, ?snapshot, ?trapPost, ?trapHighest, ?dispatch, ?intRequest, ?intCancel,
    ?intReevaluate, ?intAck, ?devRegister, ?devUnregister, ?reset⟩
  case translate =>
    exact ⟨fun h => ⟨_, _, _, _, decode_of_fits 0 h⟩, fun ⟨_, _, _, _, h⟩ => fits_of_decode 0 h rfl⟩
  case route => exact ⟨fun h => ⟨_, _, decode_of_fits 1 h⟩, fun ⟨_, _, h⟩ => fits_of_decode 1 h rfl⟩
  case access =>
    exact ⟨fun h => ⟨_, _, _, _, decode_of_fits 2 h⟩, fun ⟨_, _, _, _, h⟩ => fits_of_decode 2 h rfl⟩
  case snapshot => exact eq_iff_decode 3 rfl rfl (fun _ => rfl) w
  case trapPost => exact ⟨fun h => ⟨_, decode_of_fits 4 h⟩, fun ⟨_, h⟩ => fits_of_decode 4 h rfl⟩
  case trapHighest => exact eq_iff_decode 5 rfl rfl (fun _ => rfl) w
  case dispatch => exact eq_iff_decode 6 rfl rfl (fun _ => rfl) w
  case intRequest => exact ⟨fun h => ⟨_, _, decode_of_fits 7 h⟩, fun ⟨_, _, h⟩ => fits_of_decode 7 h rfl⟩
  case intCancel => exact ⟨fun h => ⟨_, _, decode_of_fits 8 h⟩, fun ⟨_, _, h⟩ => fits_of_decode 8 h rfl⟩
  case intReevaluate => exact ⟨fun h => ⟨_, decode_of_fits 9 h⟩, fun ⟨_, h⟩ => fits_of_decode 9 h rfl⟩
  case intAck => exact ⟨fun h => ⟨_, decode_of_fits 10 h⟩, fun ⟨_, h⟩ => fits_of_decode 10 h rfl⟩
  case devRegister => exact ⟨fun h => ⟨_, _, decode_of_fits 11 h⟩, fun ⟨_, _, h⟩ => fits_of_decode 11 h rfl⟩
  case devUnregister => exact eq_iff_decode 12 rfl rfl (fun _ => rfl) w
  case reset => exact eq_iff_decode 13 rfl rfl (fun _ => rfl) w

/-! ### The bits of a decoded command (30_encoding R121) -/

open Machine in
theorem modeNumber_modeField (w : Word32) : modeNumber (modeField w) = (w.extractLsb' 24 2).toNat := by
  unfold modeField
  generalize w.extractLsb' 24 2 = c
  revert c
  decide

open Machine in
theorem spaceNumber_spaceField (w : Word32) : spaceNumber (spaceField w) = (w.extractLsb' 23 1).toNat := by
  unfold spaceField
  generalize w.extractLsb' 23 1 = c
  revert c
  decide

theorem kindField_eq_write (w : Word32) : kindField w = .write ↔ w.getLsbD 22 = true := by
  rw [BitVec.getLsbD_eq_extractLsb', kindField]
  generalize w.extractLsb' 22 1 = c
  revert c
  decide

theorem widthField_eq_byte (w : Word32) : widthField w = .byte ↔ w.getLsbD 21 = true := by
  rw [BitVec.getLsbD_eq_extractLsb', widthField]
  generalize w.extractLsb' 21 1 = c
  revert c
  decide

/-- Settles O3: a row builds its command from the fields of the word, and a row without fields has its OP. -/
theorem decodedFieldsAreTheirBits : Obligations.DecodedFieldsAreTheirBits := by
  unfold Obligations.DecodedFieldsAreTheirBits
  intro w i h
  obtain ⟨row, hrow, hop, -, rfl⟩ := (decode_eq_ok w i).1 h
  have hbus := And.intro (kindField_eq_write w) (widthField_eq_byte w)
  have hmem := And.intro (modeNumber_modeField w) (And.intro (spaceNumber_spaceField w) hbus)
  simp only [opcodeMap, List.cons_append, List.nil_append, List.mem_cons, List.not_mem_nil, or_false] at hrow
  -- One goal for each row, in the order of the map.
  rcases hrow with rfl | rfl | rfl | rfl | rfl | rfl | rfl | rfl | rfl | rfl | rfl | rfl | rfl | rfl
  · exact hmem
  · exact hbus
  · exact hmem
  · exact hop.symm
  · rfl
  · exact hop.symm
  · exact hop.symm
  · exact ⟨rfl, rfl⟩
  · exact ⟨rfl, rfl⟩
  · rfl
  · rfl
  · exact ⟨rfl, rfl⟩
  · exact hop.symm
  · exact hop.symm

/-- Settles O4: the six words decode by the decoder's own run. -/
theorem specExampleWordsDecode : Obligations.SpecExampleWordsDecode := by
  unfold Obligations.SpecExampleWordsDecode
  decide

end Sys2Proof
end

section
/-! The command port: what a step does (30_encoding R120, R128, R129; 20_memory R100). -/

namespace Sys2Proof.Machine

/-- A step of a block that is not stopped performs the oldest presented command. -/
theorem step_of_presented {s : State} {c : Command} {rest : List Command} (hs : s.stopped = false)
    (hc : s.commands = c :: rest) : step s = perform c.cw (s.accept c rest) := by
  simp only [step, runPort, hs, hc, Bool.false_eq_true, if_false]

/-- A step of a block that is not stopped, with no command presented, changes nothing (log 2). -/
theorem step_of_idle {s : State} (hs : s.stopped = false) (hc : s.commands = []) : step s = .next s := by
  simp only [step, runPort, hs, hc, Bool.false_eq_true, if_false]

theorem step_of_stopped {s : State} (hs : s.stopped = true) : step s = .fault .stopped := by
  simp only [step, runPort, hs, if_true]

theorem perform_of_ok {w : Word32} {i : Instr} (h : decode w = .ok i) (s : State) : perform w s = exec i s := by
  simp only [perform, h]

theorem perform_of_error {w : Word32} {e : DecodeError} (h : decode w = .error e) (s : State) :
    perform w s = .next { s with refused := true, answer := some (Answer.refusal (.illegalWord e)) } := by
  simp only [perform, h, finish_refuse]

/-- Settles O5: the step accepts the command and performs its decoded word. -/
theorem stepPerformsTheOldestCommand : Obligations.StepPerformsTheOldestCommand := by
  unfold Obligations.StepPerformsTheOldestCommand
  refine ⟨fun s c rest i hs hc hi => ?_, fun s hs hc => step_of_idle hs hc⟩
  rw [step_of_presented hs hc, perform_of_ok hi]
  rfl

/-- Settles O6: performing an illegal word is a refusal. -/
theorem illegalWordIsRefused : Obligations.IllegalWordIsRefused := by
  unfold Obligations.IllegalWordIsRefused
  intro s c rest e hs hc he
  rw [step_of_presented hs hc, perform_of_error he]
  rfl

/-- Settles O7: the port looks at the mark before it looks at the commands. -/
theorem stoppedBlockHasNoStep : Obligations.StoppedBlockHasNoStep := by
  unfold Obligations.StoppedBlockHasNoStep
  intro s hs
  exact step_of_stopped hs

end Sys2Proof.Machine
end

section
/-! The invariant: what each update of the state keeps (10_state, 42_interrupts R294), and that a step keeps it. -/

namespace Sys2Proof.Machine

/-! ### Freshness of bit 15, apart from the rest of the invariant -/

/-- The invariant but for bit 15, which may be stale between the updates of one command. A stopped state is one whose
bit 15 the invariant leaves open. -/
abbrev State.StaleInv (s : State) : Prop := ({ s with stopped := true } : State).Inv

/-- Bit 15 is not stale against the shadow priority (42_interrupts R294). -/
def State.Fresh (s : State) : Prop := s.stopped = false → (s.trapmask.getLsbD 15 = true ↔ s.requestAbove s.iplShadow)

theorem State.Inv.stale {s : State} (h : s.Inv) : s.StaleInv := { h with aggregateFresh := nofun }

theorem State.StaleInv.inv {s : State} (h : s.StaleInv) (hf : s.Fresh) : s.Inv := { h with aggregateFresh := hf }

theorem State.Inv.fresh {s : State} (h : s.Inv) : s.Fresh := h.aggregateFresh

theorem State.Fresh.congr {s t : State} (h : s.Fresh) (hstopped : t.stopped = s.stopped)
    (hbit : t.trapmask.getLsbD 15 = s.trapmask.getLsbD 15) (hpend : t.pend = s.pend) (hpirq : t.pirq = s.pirq)
    (hipl : t.iplShadow = s.iplShadow) : t.Fresh := by
  intro ht
  rw [hbit, hipl, requestAbove_congr hpend hpirq]
  exact h (hstopped.symm.trans ht)

/-- Reevaluate makes bit 15 fresh (42_interrupts R284). -/
theorem fresh_reevaluate (s : State) (p : Level) : (s.reevaluate p).Fresh := fun _ => reevaluate_bit15 s p

theorem State.StaleInv.reevaluate {s : State} (h : s.StaleInv) (p : Level) : (s.reevaluate p).Inv :=
  State.StaleInv.inv { h with aggregateFresh := nofun } (fresh_reevaluate s p)

/-! ### The updates of an access -/

theorem State.StaleInv.setDesc {s : State} (h : s.StaleInv) {slot : BitVec 6} (hslot : slot.extractLsb' 4 2 ≠ 2#2)
    (d : Desc) : (s.setDesc slot d).StaleInv :=
  { h with
    modeTwo := fun slot' hmode => by
      have hne : slot' ≠ slot := by rintro rfl; exact hslot hmode
      exact (descAt_setDesc s slot slot' d).trans ((if_neg hne).trans (h.modeTwo slot' hmode))
    aggregateFresh := nofun }

theorem State.StaleInv.setFr {s : State} (h : s.StaleInv) {r : FaultRecord}
    (hr : r.reason = .none → r = FaultRecord.empty) : (s.setFr r).StaleInv :=
  { h with recordEmpty := hr, aggregateFresh := nofun }

/-- A write to installed memory keeps memory in form and installed: memory has an even size, so the second byte of an
aligned word is installed too. -/
theorem State.StaleInv.memWrite {s : State} (h : s.StaleInv) {pa : Nat} {w : Width} (hpa : pa < s.cfg.memSize)
    (heven : w = .word → pa % 2 = 0) (v : Word) :
    ({ s with mem := Machine.memWrite s.mem pa w v } : State).StaleInv :=
  { h with
    memForm := memWrite_wf h.memForm pa w v
    memInstalled := fun c hc => by
      obtain ⟨-, -, hsize, -⟩ : s.cfg.WF := h.params
      rcases mem_memWrite hc with hc | ⟨hw, hc⟩ | hc
      · exact hc ▸ hpa
      · have := heven hw
        show c.1 < s.cfg.memSize
        omega
      · exact h.memInstalled c hc
    aggregateFresh := nofun }

/-- The reset value of a descriptor is not writable, so a writable one is not of mode 2 (10_state R34, R53). -/
theorem State.StaleInv.mode_of_writable {s : State} (h : s.StaleInv) {slot : BitVec 6} (hw : (s.descAt slot).w = true) :
    slot.extractLsb' 4 2 ≠ 2#2 := by
  intro hmode
  have hzero : s.descAt slot = Desc.zero := h.modeTwo slot hmode
  rw [hzero] at hw
  cases hw

/-- A write of a register that an access reaches keeps the invariant but for bit 15. -/
theorem State.StaleInv.regWrite {s : State} (h : s.StaleInv) {r : Reg} (hr : ∃ off, regAt off = some r) (v : Word) :
    (s.regWrite r v).StaleInv := by
  obtain ⟨off, hoff⟩ := hr
  cases r with
  | sr0 =>
    rw [State.regWrite, writeSr0_eq]
    refine { h with recordEmpty := fun hnone => ?_, aggregateFresh := nofun }
    by_cases hclear : v.extractLsb' 13 3 = 0#3
    · simp only [if_pos hclear]
    · simp only [if_neg hclear] at hnone ⊢
      exact h.recordEmpty hnone
  | sr2 => exact h
  | sr3 =>
    rw [State.regWrite, writeSr3_eq]
    refine { h with extHardwired := fun hpaw => ?_, aggregateFresh := nofun }
    have hlegacy : s.cfg.paw = .legacy18 := hpaw
    simp only [hlegacy, reduceCtorEq, if_false]
    exact h.extHardwired hpaw
  | pdr slot => exact h.setDesc (regAt_mode (.inl hoff)) _
  | par slot => exact h.setDesc (regAt_mode (.inr hoff)) _
  | pirq => exact { h with aggregateFresh := nofun }
  | trapclr => exact { h with aggregateFresh := nofun }

/-- A register write leaves bit 15 fresh: PIRQ re-evaluates, and TRAPCLR clears persistent slots alone. -/
theorem State.Fresh.regWrite {s : State} (h : s.Fresh) (r : Reg) (v : Word) : (s.regWrite r v).Fresh := by
  cases r with
  | sr0 => rw [State.regWrite, writeSr0_eq]; exact h
  | sr2 => exact h
  | sr3 => rw [State.regWrite, writeSr3_eq]; exact h
  | pdr slot => exact h
  | par slot => exact h
  | pirq => exact fresh_reevaluate _ _
  | trapclr => exact h.congr rfl (getLsbD_clearPersistent_15 _ _ _) rfl rfl rfl

/-- The accesses of every command keep the invariant but for bit 15. -/
theorem accessClosed_staleInv (i : Instr) : AccessClosed i State.StaleInv where
  latch u reason slot pc hreason _ h := by
    unfold State.latch
    split
    · exact h.setFr fun hnone => absurd hnone hreason
    · exact h
  dirty u slot _ hw h := h.setDesc (h.mode_of_writable hw) _
  memory u pa w d _ hpa heven h := h.memWrite hpa heven d
  register u r v _ hr h := h.regWrite hr v
  device u call _ h := { h with aggregateFresh := nofun }

/-- The accesses of every command keep the invariant. -/
theorem accessClosed_inv (i : Instr) : AccessClosed i State.Inv where
  latch u reason slot pc hreason hk h := by
    refine ((accessClosed_staleInv i).latch u reason slot pc hreason hk h.stale).inv ?_
    rw [latch_eq]
    exact h.fresh
  dirty u slot hk hw h := ((accessClosed_staleInv i).dirty u slot hk hw h.stale).inv h.fresh
  memory u pa w d hk hpa heven h := ((accessClosed_staleInv i).memory u pa w d hk hpa heven h.stale).inv h.fresh
  register u r v hk hr h := ((accessClosed_staleInv i).register u r v hk hr h.stale).inv (h.fresh.regWrite r v)
  device u call hk h := ((accessClosed_staleInv i).device u call hk h.stale).inv h.fresh

/-! ### The updates of the other commands -/

/-- A trap slot below 15 is posted or cleared beside bit 15. -/
theorem State.Inv.setTrapmask {s : State} (h : s.Inv) {m : BitVec 16} (hm : m.getLsbD 15 = s.trapmask.getLsbD 15) :
    (s.setTrapmask m).Inv :=
  State.StaleInv.inv { h.stale with aggregateFresh := nofun } (h.fresh.congr rfl hm rfl rfl rfl)

/-- Only pending bits of owned slots may be set (42_interrupts R281). -/
theorem State.StaleInv.setPend {s : State} (h : s.StaleInv) {l : Level} {m : BitVec 32}
    (hm : ∀ k : Fin 32, m.getLsbD k.val = true → (s.pendAt l).getLsbD k.val = true ∨ s.ownerAt l k.val ≠ none) :
    (s.setPend l m).StaleInv :=
  { h with
    pendOwned := fun l' k hk => by
      have hk' : ((s.setPend l m).pendAt l').getLsbD k.val = true := hk
      rw [pendAt_setPend] at hk'
      split at hk'
      · rename_i hl
        subst hl
        exact (hm k hk').elim (h.pendOwned l' k) id
      · exact h.pendOwned l' k hk'
    aggregateFresh := nofun }

theorem State.StaleInv.clearPend {s : State} (h : s.StaleInv) (l : Level) (k : Nat) :
    (s.setPend l (clearBit (s.pendAt l) k)).StaleInv := by
  refine h.setPend fun j hj => .inl ?_
  rw [getLsbD_clearBit, Bool.and_eq_true] at hj
  exact hj.1

theorem State.StaleInv.request {s : State} (h : s.StaleInv) {dev : DevId} {l : Level} {k : BitVec 5}
    (ho : s.ownsSlot dev l k = true) : (s.setPend l (setBit (s.pendAt l) k.toNat)).StaleInv := by
  obtain ⟨-, -, -, howner⟩ := (ownsSlot_iff s dev l k).1 ho
  refine h.setPend fun j hj => ?_
  rw [getLsbD_setBit, Bool.or_eq_true] at hj
  refine hj.imp id fun hjk => ?_
  rw [Bool.and_eq_true, decide_eq_true_eq, decide_eq_true_eq] at hjk
  rw [hjk.2, howner]
  exact Option.some_ne_none _

/-- The slots that DEV_REGISTER assigns exist (43_bus R332). -/
theorem firstSlot_bounds {s : State} {l : Level} {n k : Nat} (h : s.firstSlot l n = some k) (hn : n ≠ 0) :
    4 ≤ l.toNat ∧ k + n ≤ s.cfg.nslots := by
  rw [State.firstSlot, if_neg hn] at h
  obtain ⟨⟨hcap, -⟩, -⟩ := (freeRun_eq_some s l n k).1 h
  unfold slotCapacity at hcap
  split at hcap
  · exact ⟨‹_›, hcap⟩
  · omega

/-- A registration of a device at a free window, with slots that exist, keeps the invariant (43_bus R330). -/
theorem State.Inv.register {s : State} (h : s.Inv) {l : Level} {n k base limit : Nat} {dev : DevId} (vbase : Word)
    (hdev : dev ≠ BLOCK) (hwindow : base < limit) (htop : limit ≤ s.cfg.physTop)
    (hdisjoint : s.windows.any (overlaps base limit) = false) (hfirst : s.firstSlot l n = some k) :
    (s.register l n k base limit dev vbase).Inv := by
  have hslots (hn : n ≠ 0) := firstSlot_bounds hfirst hn
  have howner (l' : Level) (j : Fin 32) :=
    ownerAt_register_of_slots s (fun hn => (hslots hn).1) k base limit dev vbase l' j.isLt
  have hvec (l' : Level) (j : Fin 32) :=
    vecAt_register_of_slots s (fun hn => (hslots hn).1) k base limit dev vbase l' j.isLt
  rw [any_overlaps_eq_false] at hdisjoint
  exact { h with
    windowBounds := fun w hw => by
      rcases List.mem_append.1 hw with hw | hw
      · exact h.windowBounds w hw
      · obtain rfl := List.mem_singleton.1 hw
        exact ⟨hwindow, htop⟩
    windowsApart := List.pairwise_append.2 ⟨h.windowsApart, List.pairwise_singleton _ _, fun w hw v hv => by
      obtain rfl := List.mem_singleton.1 hv
      exact (hdisjoint w hw).symm⟩
    builtinPresent := fun w hw => List.mem_append_left _ (h.builtinPresent w hw)
    builtinOnly := fun w hw hblock => by
      rcases List.mem_append.1 hw with hw | hw
      · exact h.builtinOnly w hw hblock
      · obtain rfl := List.mem_singleton.1 hw
        exact absurd hblock hdev
    slotsExist := fun l' j hj => by
      rw [howner] at hj ⊢
      split at hj
      · rename_i hin
        obtain ⟨rfl, hkj, hjn⟩ := hin
        obtain ⟨hl, hk⟩ := hslots (by omega)
        refine ⟨hl, show j.val < s.cfg.nslots by omega, ?_⟩
        rw [if_pos ⟨rfl, hkj, hjn⟩]
        exact fun hblock => hdev (Option.some.inj hblock)
      · rename_i hout
        rw [if_neg hout]
        exact h.slotsExist l' j hj
    freeVector := fun l' j hj => by
      rw [howner] at hj
      rw [hvec]
      split at hj
      · cases hj
      · rename_i hout
        rw [if_neg hout]
        exact h.freeVector l' j hj
    pendOwned := fun l' j hj => by
      rw [howner]
      split
      · exact Option.some_ne_none _
      · exact h.pendOwned l' j hj }

/-- The removal of a device other than the block keeps the invariant but for bit 15 (43_bus R334). -/
theorem State.StaleInv.unregister {s : State} (h : s.StaleInv) {dev : DevId} (hdev : dev ≠ BLOCK) :
    (s.unregister dev).StaleInv := by
  have howner (l : Level) (k : Fin 32) : ({ s.unregister dev with stopped := true } : State).ownerAt l k.val = _ :=
    ownerAt_unregister s dev l k.val k.isLt
  have hvec (l : Level) (k : Fin 32) : ({ s.unregister dev with stopped := true } : State).vecAt l k.val = _ :=
    vecAt_unregister s dev l k.val k.isLt
  have hpend (l : Level) (k : Fin 32) :
      (({ s.unregister dev with stopped := true } : State).pendAt l).getLsbD k.val = _ :=
    pendAt_unregister s dev l k.val k.isLt
  exact { h with
    windowBounds := fun w hw => h.windowBounds w (List.mem_of_mem_filter hw)
    windowsApart := h.windowsApart.filter _
    builtinPresent := fun w hw => by
      obtain ⟨-, -, hblock, -⟩ := builtinWindows_bounds hw
      exact List.mem_filter.2 ⟨h.builtinPresent w hw, decide_eq_true fun he => hdev (he.symm.trans hblock)⟩
    builtinOnly := fun w hw => h.builtinOnly w (List.mem_of_mem_filter hw)
    slotsExist := fun l k hk => by
      rw [howner] at hk ⊢
      split at hk
      · exact absurd rfl hk
      · rename_i hother
        rw [if_neg hother]
        exact h.slotsExist l k hk
    freeVector := fun l k hk => by
      rw [hvec]
      split
      · rfl
      · rename_i hother
        rw [howner, if_neg hother] at hk
        exact h.freeVector l k hk
    pendOwned := fun l k hk => by
      rw [hpend, Bool.and_eq_true, Bool.not_eq_true'] at hk
      rw [howner, hk.2, if_neg Bool.false_ne_true]
      exact h.pendOwned l k hk.1
    aggregateFresh := nofun }

/-! ### Reset and construction (70_reset R450, R451) -/

theorem descAt_of_replicate {s : State} {d : Desc} (h : s.desc = Vector.replicate 64 d) (slot : BitVec 6) :
    s.descAt slot = d := by
  simp only [State.descAt, h, Vector.getElem_replicate]

theorem pendAt_of_replicate {s : State} {m : BitVec 32} (h : s.pend = Vector.replicate 8 m) (l : Level) :
    s.pendAt l = m := by
  simp only [State.pendAt, h, Vector.getElem_replicate]

/-- With no pending slot and no software request, a clear bit 15 is fresh. -/
theorem fresh_of_no_request {s : State} (hmask : s.trapmask = 0#16) (hpend : s.pend = Vector.replicate 8 0#32)
    (hpirq : s.pirq = 0#7) : s.Fresh := by
  intro _
  rw [hmask]
  refine iff_of_false (by decide) ?_
  rintro ⟨l, -, hl | hl⟩
  · exact hl (pendAt_of_replicate hpend l)
  · simp [State.pirqAt, hpirq] at hl

theorem State.Inv.systemReset {s : State} (h : s.Inv) : s.systemReset.Inv :=
  { h with
    pendOwned := fun l k hk => by
      rw [pendAt_of_replicate rfl] at hk
      simp at hk
    modeTwo := fun slot _ => descAt_of_replicate rfl slot
    extHardwired := fun _ => rfl
    recordEmpty := fun _ => rfl
    aggregateFresh := fresh_of_no_request rfl rfl rfl }

/-- The built-in windows are not empty, and stand apart (10_state R56). -/
theorem builtinWindows_apart (c : Config) :
    (∀ w ∈ builtinWindows c, w.base < w.limit) ∧
    (builtinWindows c).Pairwise (fun w v => w.limit ≤ v.base ∨ v.limit ≤ w.base) := by
  simp [builtinWindows]

/-- Settles O60: every field has its reset value, and the windows are the built-in ones. -/
theorem invariantHoldsAtConstruction : Obligations.InvariantHoldsAtConstruction := by
  unfold Obligations.InvariantHoldsAtConstruction
  intro c draw hc
  have howner (l : Level) (k : Nat) : (State.construct c draw).ownerAt l k = none := SlotTable.entry_replicate none l k
  obtain ⟨hnonempty, hapart⟩ := builtinWindows_apart c
  exact {
    params := hc
    memForm := Memory.wf_ofDraw _ _
    memInstalled := fun _ => Memory.installed_ofDraw
    windowBounds := fun w hw => by
      obtain ⟨-, hlimit, -, -⟩ := builtinWindows_bounds hw
      exact ⟨hnonempty w hw, hlimit.trans_eq (ioPageBase_add c)⟩
    windowsApart := hapart
    builtinPresent := fun _ hw => hw
    builtinOnly := fun _ hw _ => hw
    slotsExist := fun l k hk => absurd (howner l k) hk
    freeVector := fun l k _ => SlotTable.entry_replicate 0#16 l k
    pendOwned := fun l k hk => by
      rw [pendAt_of_replicate rfl] at hk
      simp at hk
    modeTwo := fun slot _ => descAt_of_replicate rfl slot
    extHardwired := fun _ => rfl
    recordEmpty := fun _ => rfl
    aggregateFresh := fresh_of_no_request rfl rfl rfl }

/-! ### Every command and every step -/

/-- The updates of every command keep the invariant. -/
theorem commandClosed_inv (i : Instr) : CommandClosed i State.Inv where
  toAccessClosed := accessClosed_inv i
  posted u k hk _ h := h.setTrapmask (by simp [Nat.ne_of_gt hk])
  requested u dev l k _ ho h := (h.stale.request ho).reevaluate _
  dropped u l k _ h := (h.stale.clearPend l k).reevaluate _
  reevaluated u p _ h := h.stale.reevaluate p
  registered u l n k base limit dev vbase _ hdev hwindow htop hdisjoint hfirst h :=
    h.register vbase hdev hwindow htop hdisjoint hfirst
  failed u _ h := { h with }
  unregistered u dev _ hdev h := (h.stale.unregister hdev).reevaluate _
  wasReset u _ h := h.systemReset

/-- The invariant says nothing of the port, of the answer, of the handler calls and of the mark `S.refused`. -/
theorem State.Inv.withPort {s : State} (h : s.Inv) (refused : Bool) (commands : List Command) (ops : Operands)
    (answer : Option Answer) (devCalls : List DevCall) (draws : Nat) :
    ({ s with refused, commands, ops, answer, devCalls, draws } : State).Inv := { h with }

theorem exec_keeps_inv {i : Instr} {s t : State} (h : s.Inv) (he : exec i s = .next t) : t.Inv := by
  by_cases hi : i = .dispatch
  · subst hi
    rcases dispatch_endsIn (accessClosed_staleInv .dispatch) (fun u k _ hu => { hu with aggregateFresh := nofun })
      (fun u l k hu => hu.clearPend l k) h.stale he with
      ⟨a, rfl⟩ | ⟨u, p, a, hu, rfl⟩ | ⟨c, d, why, rfl⟩ | ⟨u, hu, rfl⟩
    · exact h.withPort _ _ _ _ _ _
    · exact (hu.reevaluate p).withPort _ _ _ _ _ _
    · exact h.withPort _ _ _ _ _ _
    · exact hu.withPort _ _ _ _ _ _
  · rcases exec_endsIn (commandClosed_inv i) hi h he with ⟨u, a, hu, rfl⟩ | ⟨c, d, why, rfl⟩
    · exact hu.withPort _ _ _ _ _ _
    · exact h.withPort _ _ _ _ _ _

/-- Settles O59: accepting a command touches the port alone, and then the command, or its refusal, keeps the
invariant. -/
theorem everyStepKeepsTheInvariant : Obligations.EveryStepKeepsTheInvariant := by
  unfold Obligations.EveryStepKeepsTheInvariant
  intro s t h hstep
  by_cases hs : s.stopped = true
  · rw [step_of_stopped hs] at hstep
    cases hstep
  · rw [Bool.not_eq_true] at hs
    cases hc : s.commands with
    | nil =>
      rw [step_of_idle hs hc] at hstep
      cases hstep
      exact h
    | cons c rest =>
      have haccept : (s.accept c rest).Inv := h.withPort _ _ _ _ _ _
      rw [step_of_presented hs hc] at hstep
      cases hd : decode c.cw with
      | ok i =>
        rw [perform_of_ok hd] at hstep
        exact exec_keeps_inv haccept hstep
      | error e =>
        rw [perform_of_error hd] at hstep
        cases hstep
        exact haccept.withPort _ _ _ _ _ _

end Sys2Proof.Machine
end

section
/-! Construction and RESET (70_reset R450, R451), SNAPSHOT (40_pagetable R213). -/

namespace Sys2Proof.Machine

/-- A draw that lists the bytes of a contents from address 0 on gives that contents (10_state R46). -/
theorem read_ofDraw_range {size n : Nat} (contents : Nat → Byte) (hn : n ≤ size) (a : Nat) :
    (Memory.ofDraw size ((List.range n).map fun b => (b, contents b))).read a =
      if a < n then contents a else unlistedByte := by
  induction n with
  | zero => rfl
  | succ n ih =>
    rw [List.range_succ, List.map_append, List.map_singleton, Memory.ofDraw_concat,
      if_pos (show (n, contents n).1 < size from hn), Memory.read_write,
      ih (Nat.le_of_succ_le hn)]
    by_cases h : a = n
    · subst h
      rw [if_pos rfl, if_pos (Nat.lt_succ_self a)]
    · rw [if_neg h]
      exact if_congr (by omega) rfl rfl

/-- Settles O55: the fields of the constructed state are its definition's, and a draw may list any contents. -/
theorem constructionGivesResetValues : Obligations.ConstructionGivesResetValues := by
  unfold Obligations.ConstructionGivesResetValues
  refine ⟨rfl, by decide, by decide, fun c contents => ?_, fun c draw => ?_⟩
  · exact ⟨_, fun a ha => (read_ofDraw_range contents le_rfl a).trans (if_pos ha)⟩
  · exact ⟨rfl, descAt_of_replicate rfl, rfl, rfl, rfl, rfl, pendAt_of_replicate rfl,
      fun l k => ⟨SlotTable.entry_replicate none l k, SlotTable.entry_replicate 0#16 l k⟩,
      rfl, rfl, rfl, rfl, rfl, rfl⟩

/-- Settles O54: RESET answers OK in the state of systemReset. -/
theorem resetClearsHardwareKeepsRegistry : Obligations.ResetClearsHardwareKeepsRegistry := by
  unfold Obligations.ResetClearsHardwareKeepsRegistry
  intro s
  rfl

/-- SNAPSHOT answers the record and writes no state. -/
theorem exec_snapshot (s : State) : exec .snapshot s = .next { s with
    answer := some ⟨.ok, resultNat s.fr.reason.code, s.fr.slot.setWidth 32, s.fr.pc.setWidth 32, 0#32, none⟩ } := rfl

/-- Settles O15: the code is that of the record's reason. -/
theorem snapshotReportsTheRecord : Obligations.SnapshotReportsTheRecord := by
  unfold Obligations.SnapshotReportsTheRecord
  intro s
  refine ⟨_, exec_snapshot s, ?_, ?_, ?_, ?_⟩ <;> intro h <;> rw [h] <;> rfl

end Sys2Proof.Machine
end

section
/-! TRANSLATE: its answers, by the cases of a translation (40_pagetable R200 to R212). -/

namespace Sys2Proof.Machine

section
variable {s t : State} {m : Mode} {sp : Space} {k : Kind} {x : Width}

theorem exec_translate_of_ok {pa : Nat} (h : translate s m sp k x s.opA16 s.opB16 = (t, .ok pa)) :
    exec (.translate m sp k x) s =
      .next { t with answer := some ⟨.ok, BitVec.ofNat 32 pa, 0#32, 0#32, 0#32, none⟩ } := by
  simp only [exec, execTranslate, h, finish_answer]
  rfl

theorem exec_translate_of_fault {f : TransFault} (h : translate s m sp k x s.opA16 s.opB16 = (t, .error f)) :
    exec (.translate m sp k x) s = .next { t with answer := some (Answer.bare f.status) } := by
  simp only [exec, execTranslate, h, finish_answer]

end

/-- The virtual address of an access is the low half of operand A, so bit 0 is the operand's (30_encoding R125). -/
theorem opA16_bit0 (s : State) : s.opA16.getLsbD 0 = s.ops.a.getLsbD 0 := by
  rw [State.opA16, BitVec.getLsbD_setWidth, decide_eq_true (by decide), Bool.true_and]

/-- Settles O9: the odd case of a translation comes before the question whether translation is enabled. -/
theorem translateOddWordFails : Obligations.TranslateOddWordFails := by
  unfold Obligations.TranslateOddWordFails
  intro s m sp k he hodd
  exact exec_translate_of_fault (translate_eq_of_transCase (.odd rfl ((opA16_bit0 s).trans hodd) he))

/-- Settles O10: the disabled case of a translation, whose address is the widened one. -/
theorem translateDisabledWidens : Obligations.TranslateDisabledWidens := by
  unfold Obligations.TranslateDisabledWidens
  intro s m sp k x he halign
  have ha : AlignedFor s x s.opA16 := fun hx ho => (opA16_bit0 s).trans (halign hx ho)
  exact exec_translate_of_ok (translate_eq_of_transCase (.disabled ha he))

/-- Settles O12: the mapped case of a translation, whose address is the relocated one. -/
theorem translateEnabledRelocates : Obligations.TranslateEnabledRelocates := by
  unfold Obligations.TranslateEnabledRelocates
  intro s m sp k x slot he halign hslot hr hl hw
  have ha : AlignedFor s x s.opA16 := fun hx ho => (opA16_bit0 s).trans (halign hx ho)
  obtain rfl : slot = slotOf m sp s.opA16 := (isSlot_iff _ _ _ _).1 hslot
  rw [exec_translate_of_ok (translate_eq_of_transCase (.mapped ha he hr hl hw))]
  cases k <;> rfl

/-- An address of the physical space is its own 32-bit result. -/
theorem toNat_resultNat_lt {pa n : Nat} (h : pa < n) : (resultNat pa).toNat < n := by
  rw [resultNat, BitVec.toNat_ofNat]
  exact (Nat.mod_le _ _).trans_lt h

/-- Where a translation answers an address, the address is below `2^PAW` (40_pagetable R212). -/
theorem translate_address_lt {s t : State} {m : Mode} {sp : Space} {k : Kind} {w : Width} {va pc : Word} {pa : Nat}
    (h : translate s m sp k w va pc = (t, .ok pa)) : pa < 2 ^ s.cfg.paw.bits := by
  have hcase := translate_cases s m sp k w va pc
  rw [h] at hcase
  cases hcase with
  | disabled => exact widenedAddress_lt _ _
  | mapped => exact relocatedAddress_lt _ _ _ _

/-- A translation leaves the marks alone. -/
theorem translate_marks (s : State) (m : Mode) (sp : Space) (k : Kind) (w : Width) (va pc : Word) :
    (translate s m sp k w va pc).1.refused = s.refused ∧ (translate s m sp k w va pc).1.stopped = s.stopped := by
  rw [translate_frame]
  exact ⟨rfl, rfl⟩

/-- Settles O13: a translation ends with an address or with one of four faults, each of which has its status. -/
theorem translateIsTotal : Obligations.TranslateIsTotal := by
  unfold Obligations.TranslateIsTotal
  intro s m sp k x
  obtain ⟨hrefused, hstopped⟩ := translate_marks s m sp k x s.opA16 s.opB16
  cases h : translate s m sp k x s.opA16 s.opB16 with
  | mk t result =>
    rw [h] at hrefused hstopped
    cases result with
    | ok pa =>
      exact ⟨_, _, exec_translate_of_ok h, rfl, hrefused, hstopped,
        .inl ⟨rfl, toNat_resultNat_lt (translate_address_lt h)⟩⟩
    | error f =>
      refine ⟨_, _, exec_translate_of_fault h, rfl, hrefused, hstopped, .inr ⟨?_, rfl⟩⟩
      cases f <;> decide

end Sys2Proof.Machine
end

section
/-! ACCESS: what it does with each ending of its translation and of its route (43_bus R326). -/

namespace Sys2Proof.Machine

section
variable {s s1 s2 t : State} {m : Mode} {sp : Space} {k : Kind} {x : Width} {pa : Nat}

theorem exec_access_of_fault {f : TransFault} (h : translate s m sp k x s.opA16 s.opC16 = (s1, .error f)) :
    exec (.access m sp k x) s =
      .next { s1.postNamed (faultTrap f) with answer := some (Answer.bare f.status) } := by
  simp only [exec, execAccess, h, finish_answer]

theorem exec_access_of_ok {v : Word} (h : translate s m sp k x s.opA16 s.opC16 = (s1, .ok pa))
    (hr : route s1 k x pa s.opB16 = .ok s2 v) :
    exec (.access m sp k x) s =
      .next { s2 with answer := some ⟨.ok, v.setWidth 32, BitVec.ofNat 32 pa, 0#32, 0#32, none⟩ } := by
  simp only [exec, execAccess, h, hr, finish_answer]
  rfl

theorem exec_access_of_nxm (h : translate s m sp k x s.opA16 s.opC16 = (s1, .ok pa))
    (hr : route s1 k x pa s.opB16 = .nxm s2) :
    exec (.access m sp k x) s = .next { s2.postNamed .nxm with answer := some (Answer.bare .nxm) } := by
  simp only [exec, execAccess, h, hr, finish_answer]

theorem exec_access_of_refused {why : RefuseReason} (h : translate s m sp k x s.opA16 s.opC16 = (s1, .ok pa))
    (hr : route s1 k x pa s.opB16 = .refused s2 why) :
    exec (.access m sp k x) s = .next { s with
      refused := true, devCalls := s2.devCalls, draws := s2.draws, answer := some (Answer.refusal why) } := by
  simp only [exec, execAccess, h, hr, finish_refuse]

end

/-- Posting a named slot writes the trap mask alone. -/
theorem postNamed_frame (s : State) (n : TrapName) :
    s.postNamed n = { s with trapmask := (s.postNamed n).trapmask } := by
  unfold State.postNamed
  split <;> rfl

end Sys2Proof.Machine
end

section
/-! What a command leaves unchanged: the port, the marks, the registry, the priority, memory, the registers, the fault
record and the dirty bits (10_state). -/

namespace Sys2Proof.Machine

/-! ### Accesses and a part of the state -/

/-- A property that no part of the state written by an access bears on is kept by a command's accesses: every access may
write the record and the dirty bits, write accesses alone memory and the registers. -/
theorem accessClosed_of_kept {P : State → Prop} {i : Instr} (hfr : ∀ u r, P u → P (u.setFr r))
    (hdesc : ∀ u slot d, P u → P (u.setDesc slot d))
    (hmem : Routes i .write → ∀ (u : State) m, P u → P { u with mem := m })
    (hreg : Routes i .write → ∀ u r v, P u → P (u.regWrite r v))
    (hdev : ∀ u call, P u → P (afterDeviceCall u call)) : AccessClosed i P where
  latch u reason slot pc _ _ h := by
    unfold State.latch
    split
    · exact hfr _ _ h
    · exact h
  dirty u slot _ _ h := hdesc _ _ _ h
  memory u pa w d hw _ _ h := hmem hw _ _ h
  register u r v hw _ h := hreg hw _ _ _ h
  device u call _ h := hdev _ _ h

/-- A command that writes physical addresses (43_bus R320, R326). -/
theorem routes_write {i : Instr} (h : Routes i .write) :
    i = .dispatch ∨ (∃ x, i = .route .write x) ∨ ∃ m sp x, i = .access m sp .write x := by
  cases i with
  | dispatch => exact .inl rfl
  | route k x => exact .inr (.inl ⟨x, by rw [show k = .write from h]⟩)
  | access m sp k x => exact .inr (.inr ⟨m, sp, x, by rw [show k = .write from h]⟩)
  | _ => exact h.elim

/-- A command that translates for a write (40_pagetable R206). -/
theorem translates_write {i : Instr} (h : Translates i .write) :
    i = .dispatch ∨ ∃ m sp x, i = .translate m sp .write x ∨ i = .access m sp .write x := by
  cases i with
  | dispatch => exact .inl rfl
  | translate m sp k x => exact .inr ⟨m, sp, x, .inl (by rw [show k = .write from h])⟩
  | access m sp k x => exact .inr ⟨m, sp, x, .inr (by rw [show k = .write from h])⟩
  | _ => exact h.elim

/-! ### Every command is answered -/

/-- Every ending of a command is a next state with an answer (log 4, log 12, log 13). -/
theorem finish_answered (s : State) (e : Ending) : ∃ t a, finish s e = .next t ∧ t.answer = some a := by
  cases e <;> exact ⟨_, _, rfl, rfl⟩

/-- Every command ends (00_scope R20). -/
theorem exec_ends (i : Instr) (s : State) : ∃ e, exec i s = finish s e := by
  cases i with
  | snapshot => exact ⟨.answer s _, rfl⟩
  | intReevaluate p => exact ⟨.answer (s.reevaluate p) _, rfl⟩
  | reset => exact ⟨.answer s.systemReset _, rfl⟩
  | _ => exact ⟨_, rfl⟩

theorem exec_answered (i : Instr) (s : State) : ∃ t a, exec i s = .next t ∧ t.answer = some a := by
  obtain ⟨e, he⟩ := exec_ends i s
  rw [he]
  exact finish_answered s e

/-- What a command that began in `s` keeps until it ends. S.config_error may be set meanwhile, and the other marks
only by how it ends. -/
structure KeptUntilEnd (s u : State) : Prop where
  cfg : u.cfg = s.cfg
  commands : u.commands = s.commands
  ops : u.ops = s.ops
  refused : u.refused = s.refused
  stopped : u.stopped = s.stopped
  configError : s.configError = true → u.configError = true

theorem KeptUntilEnd.refl (s : State) : KeptUntilEnd s s := ⟨rfl, rfl, rfl, rfl, rfl, id⟩

theorem accessClosed_keptUntilEnd (i : Instr) (s : State) : AccessClosed i (KeptUntilEnd s) := by
  refine accessClosed_of_kept (fun _ _ h => { h with }) (fun _ _ _ h => { h with }) (fun _ _ _ h => { h with })
    (fun _ u r v h => ?_) (fun _ _ h => { h with })
  rw [regWrite_frame]
  exact { h with }

theorem commandClosed_keptUntilEnd (i : Instr) (s : State) : CommandClosed i (KeptUntilEnd s) where
  toAccessClosed := accessClosed_keptUntilEnd i s
  posted _ _ _ _ h := { h with }
  requested _ _ _ _ _ _ h := { h with }
  dropped _ _ _ _ h := { h with }
  reevaluated _ _ _ h := { h with }
  registered _ _ _ _ _ _ _ _ _ _ _ _ _ _ h := { h with }
  failed _ _ h := { h with configError := fun _ => rfl }
  unregistered _ _ _ _ h := { h with }
  wasReset _ _ h := { h with }

/-- Every way a command ends: answered, refused or stopping the block. -/
theorem exec_keptUntilEnd {i : Instr} {s t : State} (he : exec i s = .next t) :
    (∃ u a, KeptUntilEnd s u ∧ t = { u with answer := some a }) ∨
    (∃ c d why, t = { s with refused := true, devCalls := c, draws := d, answer := some (Answer.refusal why) }) ∨
    (∃ u, KeptUntilEnd s u ∧ t = { u with stopped := true, answer := some (Answer.bare .doubleFault) }) := by
  by_cases hi : i = .dispatch
  · subst hi
    rcases dispatch_endsIn (accessClosed_keptUntilEnd .dispatch s) (fun _ _ _ h => { h with })
      (fun _ _ _ h => { h with }) (.refl s) he with ⟨a, rfl⟩ | ⟨u, p, a, hu, rfl⟩ | hrefused | hstop
    · exact .inl ⟨s, a, .refl s, rfl⟩
    · exact .inl ⟨u.reevaluate p, a, { hu with }, rfl⟩
    · exact .inr (.inl hrefused)
    · exact .inr (.inr hstop)
  · exact (exec_endsIn (commandClosed_keptUntilEnd i s) hi (.refl s) he).imp id .inl

/-- Settles O8: a command keeps the port and its marks until it ends, and every ending answers and only sets marks. -/
theorem everyCommandIsAnswered : Obligations.EveryCommandIsAnswered := by
  unfold Obligations.EveryCommandIsAnswered
  intro i s
  obtain ⟨t, a, he, ha⟩ := exec_answered i s
  refine ⟨t, a, he, ha, ?_⟩
  rcases exec_keptUntilEnd he with ⟨u, _, h, rfl⟩ | ⟨c, d, why, rfl⟩ | ⟨u, h, rfl⟩
  · exact ⟨h.cfg, h.commands, h.ops, h.refused.trans, h.configError, h.stopped.trans⟩
  · exact ⟨rfl, rfl, rfl, fun _ => rfl, id, id⟩
  · exact ⟨h.cfg, h.commands, h.ops, h.refused.trans, h.configError, fun _ => rfl⟩

/-! ### The registry, the priority, memory and the registers -/

/-- What the updates of a command keep, and its end does not bear on, holds of the next state. -/
theorem exec_keeps {i : Instr} {P : State → Prop} {s t : State} (he : exec i s = .next t) (hi : i ≠ .dispatch)
    (hc : CommandClosed i P) (hend : ∀ (u : State) refused answer devCalls draws, P u →
      P { u with refused := refused, answer := answer, devCalls := devCalls, draws := draws }) (h : P s) : P t := by
  rcases exec_endsIn hc hi h he with ⟨u, a, hu, rfl⟩ | ⟨c, d, why, rfl⟩
  · exact hend u _ _ _ _ hu
  · exact hend s _ _ _ _ h

/-- Settles O56: only a registration and a removal write the windows or a slot table. -/
theorem registryChangesOnlyByRegistration : Obligations.RegistryChangesOnlyByRegistration := by
  unfold Obligations.RegistryChangesOnlyByRegistration
  intro i s t he hregister hunregister
  have haccess : AccessClosed i (fun u => u.windows = s.windows ∧ u.owner = s.owner ∧ u.vec = s.vec) :=
    accessClosed_of_kept (fun _ _ h => h) (fun _ _ _ h => h) (fun _ _ _ h => h)
      (fun _ u r v h => by rw [regWrite_frame]; exact h) (fun _ _ h => h)
  by_cases hi : i = .dispatch
  · subst hi
    rcases dispatch_endsIn haccess (fun _ _ _ h => h) (fun _ _ _ h => h) ⟨rfl, rfl, rfl⟩ he with
      ⟨a, rfl⟩ | ⟨u, p, a, hu, rfl⟩ | ⟨c, d, why, rfl⟩ | ⟨u, hu, rfl⟩
    · exact ⟨rfl, rfl, rfl⟩
    · exact hu
    · exact ⟨rfl, rfl, rfl⟩
    · exact hu
  · have hclosed : CommandClosed i (fun u => u.windows = s.windows ∧ u.owner = s.owner ∧ u.vec = s.vec) :=
      { haccess with
        posted := fun _ _ _ _ h => h
        requested := fun _ _ _ _ _ _ h => h
        dropped := fun _ _ _ _ h => h
        reevaluated := fun _ _ _ h => h
        registered := fun _ l n _ _ _ _ _ hr => absurd hr (hregister l n)
        failed := fun _ _ h => h
        unregistered := fun _ _ hr => absurd hr hunregister
        wasReset := fun _ _ h => h }
    exact exec_keeps he hi hclosed (fun _ _ _ _ _ h => h) ⟨rfl, rfl, rfl⟩

/-- The shadow priority is written by INT_REEVALUATE, RESET and DISPATCH alone (10_state R44). -/
theorem iplShadow_kept {i : Instr} {s t : State} (he : exec i s = .next t) (hdispatch : i ≠ .dispatch)
    (hreset : i ≠ .reset) (hreevaluate : ∀ p, i ≠ .intReevaluate p) : t.iplShadow = s.iplShadow := by
  have hclosed : CommandClosed i (fun u => u.iplShadow = s.iplShadow) :=
    { accessClosed_of_kept (fun _ _ h => h) (fun _ _ _ h => h) (fun _ _ _ h => h)
        (fun _ u r v h => by rw [regWrite_frame]; exact h) (fun _ _ h => h) with
      posted := fun _ _ _ _ h => h
      requested := fun _ _ _ _ _ _ h => h
      dropped := fun _ _ _ _ h => h
      reevaluated := fun u p hp h => hp.elim (fun hi => absurd hi (hreevaluate p)) (fun hp => hp.2.trans h)
      registered := fun _ _ _ _ _ _ _ _ _ _ _ _ _ _ h => h
      failed := fun _ _ h => h
      unregistered := fun _ _ _ _ h => h
      wasReset := fun _ hi => absurd hi hreset }
  exact exec_keeps he hdispatch hclosed (fun _ _ _ _ _ h => h) rfl

/-- A command that makes no write access. -/
theorem not_routes_write {i : Instr} (hdispatch : i ≠ .dispatch) (hroute : ∀ x, i ≠ .route .write x)
    (haccess : ∀ m sp x, i ≠ .access m sp .write x) : ¬ Routes i .write := by
  intro h
  rcases routes_write h with h | ⟨x, h⟩ | ⟨m, sp, x, h⟩
  · exact hdispatch h
  · exact hroute x h
  · exact haccess m sp x h

/-- Memory is written by write accesses and DISPATCH alone, and the registers ENABLE, EXT and PIRQ by those and RESET
(10_state R37, R38). -/
theorem memory_and_registers_kept {i : Instr} {s t : State} (he : exec i s = .next t) (hdispatch : i ≠ .dispatch)
    (hwrite : ¬ Routes i .write) :
    t.mem = s.mem ∧ (i ≠ .reset → t.enable = s.enable ∧ t.ext = s.ext ∧ t.pirq = s.pirq) := by
  have hclosed : CommandClosed i
      (fun u => u.mem = s.mem ∧ (i ≠ .reset → u.enable = s.enable ∧ u.ext = s.ext ∧ u.pirq = s.pirq)) :=
    { accessClosed_of_kept (fun _ _ h => h) (fun _ _ _ h => h) (fun hw => absurd hw hwrite) (fun hw => absurd hw hwrite)
        (fun _ _ h => h) with
      posted := fun _ _ _ _ h => h
      requested := fun _ _ _ _ _ _ h => h
      dropped := fun _ _ _ _ h => h
      reevaluated := fun _ _ _ h => h
      registered := fun _ _ _ _ _ _ _ _ _ _ _ _ _ _ h => h
      failed := fun _ _ h => h
      unregistered := fun _ _ _ _ h => h
      wasReset := fun _ hi h => ⟨h.1, fun hne => absurd hi hne⟩ }
  exact exec_keeps he hdispatch hclosed (fun _ _ _ _ _ h => h) ⟨rfl, fun _ => ⟨rfl, rfl, rfl⟩⟩

/-- Settles O57: by what each command keeps. -/
theorem stateIsWrittenOnlyByItsCommands : Obligations.StateIsWrittenOnlyByItsCommands := by
  unfold Obligations.StateIsWrittenOnlyByItsCommands
  intro i s t he hdispatch
  exact ⟨fun hreset hreevaluate => iplShadow_kept he hdispatch hreset hreevaluate, fun hroute haccess =>
    memory_and_registers_kept he hdispatch (not_routes_write hdispatch hroute haccess)⟩

/-! ### The fault record -/

/-- Latch is a no-op on a frozen record (40_pagetable R210). -/
theorem latch_of_frozen {s : State} (h : s.fr.reason ≠ .none) (reason : FaultReason) (slot : BitVec 6) (pc : Word) :
    s.latch reason slot pc = s := if_neg h

/-- A register write keeps the record or clears it (40_pagetable R214). -/
theorem regWrite_fr (s : State) (r : Reg) (v : Word) :
    (s.regWrite r v).fr = s.fr ∨ (s.regWrite r v).fr = FaultRecord.empty := by
  cases r with
  | sr0 =>
    rw [State.regWrite, writeSr0_eq]
    exact (ite_eq_or_eq _ _ _).symm
  | sr3 => rw [State.regWrite, writeSr3_eq]; exact .inl rfl
  | _ => exact .inl rfl

/-- A translation keeps a frozen record. -/
theorem translate_fr_of_frozen {s : State} (h : s.fr.reason ≠ .none) (m : Mode) (sp : Space) (k : Kind) (w : Width)
    (va pc : Word) : (translate s m sp k w va pc).1.fr = s.fr := by
  have hcase := translate_cases s m sp k w va pc
  revert hcase
  generalize translate s m sp k w va pc = r
  intro hcase
  cases hcase with
  | odd => rfl
  | disabled => rfl
  | nonResident => exact congrArg State.fr (latch_of_frozen h _ _ _)
  | pageLength => exact congrArg State.fr (latch_of_frozen h _ _ _)
  | readOnly => exact congrArg State.fr (latch_of_frozen h _ _ _)
  | mapped => cases k <;> rfl

/-- Only accesses and RESET write descriptors or the record, so of what those say alone their updates decide. -/
theorem AccessClosed.command {i : Instr} {P : State → Prop} (ha : AccessClosed i P)
    (hcongr : ∀ {u t : State}, t.desc = u.desc → t.fr = u.fr → P u → P t)
    (hreset : ∀ u : State, i = .reset → P u.systemReset) : CommandClosed i P :=
  { ha with
    posted := fun _ _ _ _ => hcongr rfl rfl
    requested := fun _ _ _ _ _ _ => hcongr rfl rfl
    dropped := fun _ _ _ _ => hcongr rfl rfl
    reevaluated := fun _ _ _ => hcongr rfl rfl
    registered := fun _ _ _ _ _ _ _ _ _ _ _ _ _ _ => hcongr rfl rfl
    failed := fun _ _ => hcongr rfl rfl
    unregistered := fun _ _ _ _ => hcongr rfl rfl
    wasReset := fun u hi _ => hreset u hi }

/-- A command that translates nothing keeps the record or clears it, and goes on so from a cleared one. -/
theorem commandClosed_fr {i : Instr} (hi : ∀ k, ¬ Translates i k) (fr : FaultRecord) :
    CommandClosed i (fun u => u.fr = fr ∨ u.fr = FaultRecord.empty) := by
  refine AccessClosed.command
    { latch := fun _ _ _ _ _ hk => absurd hk.choose_spec (hi _)
      dirty := fun _ _ hk => absurd hk (hi _)
      memory := fun _ _ _ _ _ _ _ h => h
      register := fun u r v _ _ h => (regWrite_fr u r v).elim (fun hr => hr ▸ h) .inr
      device := fun _ _ _ h => h } (fun _ hfr h => hfr ▸ h) (fun _ _ => .inr rfl)

/-- A route keeps the record or clears it. -/
theorem route_fr (s : State) (k : Kind) (x : Width) (pa : Nat) (d : Word) :
    (route s k x pa d).All fun u => u.fr = s.fr ∨ u.fr = FaultRecord.empty :=
  route_closed (commandClosed_fr (i := .route k x) (fun _ => id) s.fr).toAccessClosed s k x pa d rfl (.inl rfl)

/-- TRANSLATE keeps a frozen record. -/
theorem exec_translate_fr_of_frozen {s t : State} {m : Mode} {sp : Space} {k : Kind} {x : Width}
    (h : s.fr.reason ≠ .none) (he : exec (.translate m sp k x) s = .next t) : t.fr = s.fr := by
  have hfr := translate_fr_of_frozen h m sp k x s.opA16 s.opB16
  cases htr : translate s m sp k x s.opA16 s.opB16 with
  | mk s1 result =>
    rw [htr] at hfr
    cases result with
    | ok pa =>
      rw [exec_translate_of_ok htr] at he
      cases he
      exact hfr
    | error f =>
      rw [exec_translate_of_fault htr] at he
      cases he
      exact hfr

/-- ACCESS keeps a frozen record through its translation, and then its route keeps or clears it. -/
theorem exec_access_fr_of_frozen {s t : State} {m : Mode} {sp : Space} {k : Kind} {x : Width}
    (h : s.fr.reason ≠ .none) (he : exec (.access m sp k x) s = .next t) :
    t.fr = s.fr ∨ t.fr = FaultRecord.empty := by
  have hfr := translate_fr_of_frozen h m sp k x s.opA16 s.opC16
  cases htr : translate s m sp k x s.opA16 s.opC16 with
  | mk s1 result =>
    rw [htr] at hfr
    cases result with
    | error f =>
      rw [exec_access_of_fault htr, postNamed_frame] at he
      cases he
      exact .inl hfr
    | ok pa =>
      have hroute := route_fr s1 k x pa s.opB16
      rw [show s1.fr = s.fr from hfr] at hroute
      cases hr : route s1 k x pa s.opB16 with
      | ok s2 v =>
        rw [exec_access_of_ok htr hr] at he
        rw [hr] at hroute
        cases he
        cases hroute
        assumption
      | nxm s2 =>
        rw [exec_access_of_nxm htr hr, postNamed_frame] at he
        rw [hr] at hroute
        cases he
        cases hroute
        assumption
      | refused s2 why =>
        rw [exec_access_of_refused htr hr] at he
        cases he
        exact .inl rfl

/-- Settles O14: a translation comes before any register write, and a frozen record takes no latch. -/
theorem frozenRecordIsKeptOrCleared : Obligations.FrozenRecordIsKeptOrCleared := by
  unfold Obligations.FrozenRecordIsKeptOrCleared
  intro i s t hi he h
  have hother (hnone : ∀ k, ¬ Translates i k) : t.fr = s.fr ∨ t.fr = FaultRecord.empty :=
    exec_keeps he hi (commandClosed_fr hnone s.fr) (fun _ _ _ _ _ h => h) (.inl rfl)
  cases i with
  | translate m sp k x => exact .inl (exec_translate_fr_of_frozen h he)
  | access m sp k x => exact exec_access_fr_of_frozen h he
  | dispatch => exact absurd rfl hi
  | _ => exact hother fun _ => id

/-! ### The dirty bits (10_state R36) -/

/-- No register write sets a dirty bit: PDR and PAR writes clear it (44_register_surface R368, R370). -/
theorem regWrite_wr {s : State} {slot : BitVec 6} (h : (s.descAt slot).wr = false) (r : Reg) (v : Word) :
    ((s.regWrite r v).descAt slot).wr = false := by
  have hset (slot' : BitVec 6) (d : Desc) (hd : d.wr = false) : ((s.setDesc slot' d).descAt slot).wr = false := by
    rw [descAt_setDesc]
    split
    · exact hd
    · exact h
  cases r with
  | sr0 => rw [State.regWrite, writeSr0_eq]; exact h
  | sr3 => rw [State.regWrite, writeSr3_eq]; exact h
  | pdr slot' => exact hset slot' _ rfl
  | par slot' => exact hset slot' _ rfl
  | _ => exact h

theorem latch_descAt (s : State) (reason : FaultReason) (slot slot' : BitVec 6) (pc : Word) :
    (s.latch reason slot pc).descAt slot' = s.descAt slot' := by
  rw [latch_eq]
  rfl

/-- A set dirty bit survives a command that makes no write access and is not RESET: a translation only sets it. -/
theorem commandClosed_dirty {i : Instr} (hreset : i ≠ .reset) (hwrite : ¬ Routes i .write) (slot : BitVec 6) :
    CommandClosed i (fun u => (u.descAt slot).wr = true) := by
  refine AccessClosed.command
    { latch := fun u _ _ _ _ _ h => by rw [latch_descAt]; exact h
      dirty := fun u slot' _ _ h => by
        rw [descAt_setDesc]
        split
        · rfl
        · exact h
      memory := fun _ _ _ _ hw => absurd hw hwrite
      register := fun _ _ _ hw => absurd hw hwrite
      device := fun _ _ _ h => h } (fun hdesc _ h => ?_) (fun _ hi => absurd hi hreset)
  rw [State.descAt, hdesc]
  exact h

/-- A clear dirty bit stays clear under a command that translates for no write. -/
theorem commandClosed_clean {i : Instr} (hwrite : ¬ Translates i .write) (slot : BitVec 6) :
    CommandClosed i (fun u => (u.descAt slot).wr = false) := by
  refine AccessClosed.command
    { latch := fun u _ _ _ _ _ h => by rw [latch_descAt]; exact h
      dirty := fun _ _ hw => absurd hw hwrite
      memory := fun _ _ _ _ _ _ _ h => h
      register := fun _ r v _ _ h => regWrite_wr h r v
      device := fun _ _ _ h => h } (fun hdesc _ h => ?_)
    (fun u _ => congrArg Desc.wr (descAt_of_replicate (s := u.systemReset) rfl slot))
  rw [State.descAt, hdesc]
  exact h

/-- Settles O16: the bit is cleared by register writes and RESET alone, and set by write translations alone. -/
theorem dirtyBitChangesOnlyByWrites : Obligations.DirtyBitChangesOnlyByWrites := by
  unfold Obligations.DirtyBitChangesOnlyByWrites
  intro i s t slot he
  refine ⟨fun hreset hdispatch hroute haccess hset => ?_, fun hclear hset => ?_⟩
  · exact exec_keeps he hdispatch (commandClosed_dirty hreset (not_routes_write hdispatch hroute haccess) slot)
      (fun _ _ _ _ _ h => h) hset
  · by_contra hnot
    have hdispatch : i ≠ .dispatch := fun hi => hnot (.inl hi)
    have hclean := exec_keeps he hdispatch (commandClosed_clean (fun hw => hnot (translates_write hw)) slot)
      (fun _ _ _ _ _ h => h) hclear
    exact Bool.false_ne_true (hclean.symm.trans hset)

end Sys2Proof.Machine
end

section
/-! TRAP_POST, INT_REQUEST, INT_CANCEL and INT_ACK without a device request (41_trapunit R240; 42_interrupts R280 to
R292). -/

namespace Sys2Proof.Machine

/-! ### TRAP_POST -/

theorem exec_trapPost_of_ne {k : BitVec 4} (h : k ≠ 15#4) (s : State) :
    exec (.trapPost k) s = .next { s.postTrap k.toNat with answer := some (Answer.bare .ok) } := by
  simp only [exec, execTrapPost, if_neg h, finish_answer]

theorem exec_trapPost_refused (s : State) :
    exec (.trapPost 15#4) s =
      .next { s with refused := true, answer := some (Answer.refusal .slot15NotPostable) } := by
  simp only [exec, execTrapPost, if_true, finish_refuse]

/-- A posted slot is one bit of the mask. -/
theorem getLsbD_postTrap (s : State) (k : Nat) {j : Nat} (hj : j < 16) :
    (s.postTrap k).trapmask.getLsbD j = (s.trapmask.getLsbD j || decide (j = k)) := by
  rw [State.postTrap_trapmask, getLsbD_setBit, decide_eq_true hj, Bool.true_and]

/-- Settles O28: below slot 15 the next state is postTrap's, which sets the one bit. -/
theorem trapPostSetsOneBit : Obligations.TrapPostSetsOneBit := by
  unfold Obligations.TrapPostSetsOneBit
  intro s k
  exact ⟨fun hk => ⟨_, exec_trapPost_of_ne hk s, fun j hj => getLsbD_postTrap s k.toNat hj, rfl⟩,
    exec_trapPost_refused s⟩

/-! ### INT_REQUEST and INT_CANCEL -/

section
variable {s : State} {l : Level} {k : BitVec 5}

theorem exec_intRequest_of_owner (h : s.ownsSlot s.opADev l k = true) :
    exec (.intRequest l k) s = .next {
      (s.setPend l (setBit (s.pendAt l) k.toNat)).reevaluate s.iplShadow with
      answer := some (Answer.bare .ok) } := by
  simp only [exec, execIntRequest, if_pos h, finish_answer]

theorem exec_intRequest_of_other (h : ¬ s.ownsSlot s.opADev l k = true) :
    exec (.intRequest l k) s =
      .next { s with refused := true, answer := some (Answer.refusal .unownedSlot) } := by
  simp only [exec, execIntRequest, if_neg h, finish_refuse]

theorem exec_intCancel_of_owner (h : s.ownsSlot s.opADev l k = true) :
    exec (.intCancel l k) s = .next {
      (s.setPend l (clearBit (s.pendAt l) k.toNat)).reevaluate s.iplShadow with
      answer := some (Answer.bare .ok) } := by
  simp only [exec, execIntCancel, if_pos h, finish_answer]

theorem exec_intCancel_of_other (h : ¬ s.ownsSlot s.opADev l k = true) :
    exec (.intCancel l k) s =
      .next { s with refused := true, answer := some (Answer.refusal .unownedSlot) } := by
  simp only [exec, execIntCancel, if_neg h, finish_refuse]

end

/-- Settles O36: the next state is that of the set bit, re-evaluated. -/
theorem intRequestSetsTheOwnersBit : Obligations.IntRequestSetsTheOwnersBit := by
  unfold Obligations.IntRequestSetsTheOwnersBit
  intro s l k
  have howns := ownsSlot_iff s s.opADev l k
  refine ⟨fun h => ⟨_, exec_intRequest_of_owner (howns.2 h), fun l' j hj => getLsbD_pendAt_setBit s l l' k.toNat j hj,
    reevaluate_bit15 _ _, reevaluate_other_bits _ _, rfl⟩, fun h => ?_⟩
  exact exec_intRequest_of_other fun ho => h (howns.1 ho)

/-- Settles O37: the next state is that of the cleared bit, re-evaluated. -/
theorem intCancelClearsTheOwnersBit : Obligations.IntCancelClearsTheOwnersBit := by
  unfold Obligations.IntCancelClearsTheOwnersBit
  intro s l k
  have howns := ownsSlot_iff s s.opADev l k
  refine ⟨fun h => ⟨_, exec_intCancel_of_owner (howns.2 h), fun l' j _ => getLsbD_pendAt_clearBit s l l' k.toNat j,
    reevaluate_bit15 _ _, reevaluate_other_bits _ _, rfl⟩, fun h => ?_⟩
  exact exec_intCancel_of_other fun ho => h (howns.1 ho)

/-! ### Acknowledge and INT_ACK -/

section
variable {s : State} {p l : Level}

theorem acknowledge_of_softwareRequest (hd : s.deviceRequest p = none) (h : s.softwareRequest p = some l) :
    s.acknowledge p = (s, some ⟨swiVector s.cfg l, l, none⟩) := by
  simp only [State.acknowledge, hd, h]

theorem acknowledge_of_none (hd : s.deviceRequest p = none) (h : s.softwareRequest p = none) :
    s.acknowledge p = (s, none) := by
  simp only [State.acknowledge, hd, h]

theorem exec_intAck_of_some {s1 : State} {a : Ack} (h : s.acknowledge p = (s1, some a)) :
    exec (.intAck p) s = .next { s1.reevaluate s1.iplShadow with answer := some (ackAnswer a) } := by
  simp only [exec, execIntAck, h, finish_answer]

theorem exec_intAck_of_none {s1 : State} (h : s.acknowledge p = (s1, none)) :
    exec (.intAck p) s = .next { s1.reevaluate s1.iplShadow with answer := some (Answer.bare .none) } := by
  simp only [exec, execIntAck, h, finish_answer]

/-- Acknowledge takes a request above its priority alone (42_interrupts R289). -/
theorem acknowledge_level {s1 : State} {a : Ack} (h : s.acknowledge p = (s1, some a)) : p < a.level := by
  rcases acknowledge_cases s p with ⟨l, k, hp, -, -, e⟩ | ⟨-, ⟨l, hp, -, e⟩ | ⟨-, e⟩⟩ <;> rw [e] at h <;> cases h
  · exact hp
  · exact hp

/-! ### Software requests by their PIRQ bits (10_state R43) -/

/-- No PIRQ bit above a level's is set exactly when no higher level is requested. -/
theorem pirqAt_above_of_bits {j : Fin 7} (hl : l.toNat = j.val + 1)
    (h : ∀ i : Fin 7, j < i → s.pirq.getLsbD i.val = false) (l' : Level) (hl' : l < l') : s.pirqAt l' = false := by
  rw [BitVec.lt_def] at hl'
  have hlt := l'.isLt
  rw [pirqAt_of_bit s l' (l'.toNat - 1) (by omega)]
  exact h ⟨l'.toNat - 1, by omega⟩ (show j.val < l'.toNat - 1 by omega)

/-- The highest requested level is the software request, where it is in range (42_interrupts R292). -/
theorem softwareRequest_of_bits {j : Fin 7} (hl : l.toNat = j.val + 1) (hp : p < l) (hset : s.pirq.getLsbD j.val = true)
    (hhigh : ∀ i : Fin 7, j < i → s.pirq.getLsbD i.val = false) : s.softwareRequest p = some l :=
  softwareRequest_eq_some hp ((pirqAt_of_bit s l j.val hl).trans hset) (pirqAt_above_of_bits hl hhigh)

/-- A level above another has a PIRQ bit. -/
theorem pirqBit_of_lt (hp : p < l) : ∃ j : Fin 7, l.toNat = j.val + 1 := by
  rw [BitVec.lt_def] at hp
  have hlt := l.isLt
  exact ⟨⟨l.toNat - 1, by omega⟩, show l.toNat = l.toNat - 1 + 1 by omega⟩

/-- SWI_VEC lists level 1 first (42_interrupts R295). -/
theorem swiVector_eq (c : Config) {j : Fin 7} (hl : l.toNat = j.val + 1) : swiVector c l = c.swiVec[j] := by
  simp [swiVector, hl]

end

/-- Settles O40: without a device request Acknowledge takes the software request, if there is one, and leaves the
state. -/
theorem intAckTakesTheSoftwareRequest : Obligations.IntAckTakesTheSoftwareRequest := by
  unfold Obligations.IntAckTakesTheSoftwareRequest
  intro s p hnone
  have hd := (deviceRequest_eq_none s p).2 hnone
  cases hs : s.softwareRequest p with
  | some l0 =>
    refine ⟨_, exec_intAck_of_some (acknowledge_of_softwareRequest hd hs), reevaluate_bit15 _ _,
      reevaluate_other_bits _ _, rfl, fun j l hl hp hset hhigh => ?_, fun hclear => ?_⟩
    · obtain rfl : l0 = l := Option.some.inj (hs.symm.trans (softwareRequest_of_bits hl hp hset hhigh))
      rw [← swiVector_eq s.cfg hl]
      rfl
    · obtain ⟨hp, hset⟩ := softwareRequest_pending hs
      obtain ⟨j, hj⟩ := pirqBit_of_lt hp
      rw [pirqAt_of_bit s l0 j.val hj, hclear j l0 hj hp] at hset
      cases hset
  | none =>
    refine ⟨_, exec_intAck_of_none (acknowledge_of_none hd hs), reevaluate_bit15 _ _, reevaluate_other_bits _ _, rfl,
      fun j l hl hp hset hhigh => ?_, fun _ => rfl⟩
    cases hs.symm.trans (softwareRequest_of_bits hl hp hset hhigh)

/-- Settles O41: Acknowledge takes a level above its priority, and bit 15 is the aggregate condition. -/
theorem requestsAtOrBelowThePriorityAreMasked : Obligations.RequestsAtOrBelowThePriorityAreMasked := by
  unfold Obligations.RequestsAtOrBelowThePriorityAreMasked
  intro s t p a
  refine ⟨fun he ha hok => ?_, fun he hnone => ?_⟩
  · cases hack : s.acknowledge p with
    | mk s1 taken =>
      cases taken with
      | some k =>
        rw [exec_intAck_of_some hack] at he
        cases he
        cases ha
        have hlevel : p < k.level := acknowledge_level hack
        have hq1 : (ackAnswer k).q1.toNat = k.level.toNat := by simp [ackAnswer, Answer.results]; omega
        rw [hq1]
        exact BitVec.lt_def.1 hlevel
      | none =>
        rw [exec_intAck_of_none hack] at he
        cases he
        cases ha
        cases hok
  · rw [exec_intReevaluate] at he
    cases he
    rw [← Bool.not_eq_true]
    intro hbit
    obtain ⟨l, hl, hrequest⟩ := (reevaluate_bit15 s p).1 hbit
    obtain ⟨hpend, hpirq⟩ := hnone l hl
    exact hrequest.elim (fun h => h hpend) (fun h => Bool.false_ne_true (hpirq.symm.trans h))

end Sys2Proof.Machine
end

section
/-! The parts of the state that no access reads: the operands, the marks S.refused and S.config_error, and the answer
(10_state R47; log 4, log 5). -/

namespace Sys2Proof.Machine

/-- The state with its operands, its two marks and its answer changed. -/
def State.relabel (g : Operands → Operands) (h : Bool → Bool) (b : Option Answer → Option Answer) (s : State) : State :=
  { s with ops := g s.ops, refused := h s.refused, configError := h s.configError, answer := b s.answer }

/-- A physical access that ends in another state. -/
def Routed.map (f : State → State) : Routed → Routed
  | .ok s v => .ok (f s) v
  | .nxm s => .nxm (f s)
  | .refused s why => .refused (f s) why

variable (g : Operands → Operands) (h : Bool → Bool) (b : Option Answer → Option Answer) (s : State)

theorem latch_relabel (reason : FaultReason) (slot : BitVec 6) (pc : Word) :
    (s.relabel g h b).latch reason slot pc = (s.latch reason slot pc).relabel g h b := by
  rw [latch_eq, latch_eq]
  rfl

theorem translate_relabel (m : Mode) (sp : Space) (k : Kind) (w : Width) (va pc : Word) :
    translate (s.relabel g h b) m sp k w va pc =
      ((translate s m sp k w va pc).1.relabel g h b, (translate s m sp k w va pc).2) := by
  have hcase := translate_cases s m sp k w va pc
  revert hcase
  generalize translate s m sp k w va pc = r
  intro hcase
  cases hcase with
  | odd hw hv he => exact translate_eq_of_transCase (.odd hw hv he)
  | disabled ha he => exact translate_eq_of_transCase (.disabled ha he)
  | nonResident ha he hr =>
    rw [← latch_relabel]
    exact translate_eq_of_transCase (.nonResident ha he hr)
  | pageLength ha he hr hl =>
    rw [← latch_relabel]
    exact translate_eq_of_transCase (.pageLength ha he hr hl)
  | readOnly ha he hr hl hk hw =>
    rw [← latch_relabel]
    exact translate_eq_of_transCase (.readOnly ha he hr hl hk hw)
  | mapped ha he hr hl hw =>
    rw [translate_eq_of_transCase (.mapped (s := s.relabel g h b) ha he hr hl hw)]
    cases k <;> rfl

theorem regRead_relabel (r : Reg) : (s.relabel g h b).regRead r = s.regRead r := by cases r <;> rfl

theorem regWrite_relabel (r : Reg) (v : Word) :
    (s.relabel g h b).regWrite r v = (s.regWrite r v).relabel g h b := by
  cases r with
  | sr0 => simp only [State.regWrite, writeSr0_eq]; rfl
  | sr3 => simp only [State.regWrite, writeSr3_eq]; rfl
  | _ => rfl

theorem regAccess_relabel (k : Kind) (x : Width) (off : Nat) (d : Word) :
    (s.relabel g h b).regAccess k x off d = (s.regAccess k x off d).map (State.relabel g h b) := by
  unfold State.regAccess
  cases regAt (off - off % 2) with
  | none => rfl
  | some r => cases k <;> cases x <;> simp only [regRead_relabel, regWrite_relabel, Routed.map]

theorem deviceAccess_relabel (dev : DevId) (k : Kind) (x : Width) (off : Nat) (d : Word) :
    (s.relabel g h b).deviceAccess dev k x off d = (s.deviceAccess dev k x off d).map (State.relabel g h b) := by
  have hdraws : (s.relabel g h b).draws = s.draws := rfl
  cases k with
  | read =>
    simp only [State.deviceAccess, hdraws]
    cases Config.devRead s.draws dev off x <;> rfl
  | write =>
    simp only [State.deviceAccess, hdraws]
    cases Config.devWrite s.draws dev off x (writeData x d) <;> rfl

theorem routeAt_relabel (k : Kind) (x : Width) (pa : Nat) (d : Word) :
    (s.relabel g h b).routeAt k x pa d = (s.routeAt k x pa d).map (State.relabel g h b) := by
  have hcfg : (s.relabel g h b).cfg = s.cfg := rfl
  have hlookup : (s.relabel g h b).lookup pa = s.lookup pa := rfl
  simp only [State.routeAt, hcfg, hlookup]
  split
  · cases k <;> rfl
  · split
    · split
      · rfl
      · split
        · exact regAccess_relabel g h b s k x _ d
        · exact deviceAccess_relabel g h b s _ k x _ d
    · rfl

theorem route_relabel (k : Kind) (x : Width) (pa : Nat) (d : Word) :
    route (s.relabel g h b) k x pa d = (route s k x pa d).map (State.relabel g h b) := by
  have hpolicy : (s.relabel g h b).cfg.oddWordPolicy = s.cfg.oddWordPolicy := rfl
  simp only [route, routeAt_relabel, hpolicy]
  split
  · cases s.cfg.oddWordPolicy <;> rfl
  · rfl

end Sys2Proof.Machine
end

section
/-! ROUTE (43_bus R320 to R323; 20_memory R81, R84): memory, nothing, odd words, devices, and byte writes of
registers. -/

namespace Sys2Proof.Machine

/-! ### How a ROUTE ends -/

section
variable {s t : State} {k : Kind} {x : Width}

theorem exec_route_of_nxm (hpa : s.opAAddr < s.cfg.physTop) (h : route s k x s.opAAddr s.opB16 = .nxm t) :
    exec (.route k x) s = .next { t with answer := some (Answer.bare .nxm) } := by
  simp only [exec, execRoute, if_neg (Nat.not_le.2 hpa), h, finish_answer]

theorem exec_route_of_refused {why : RefuseReason} (hpa : s.opAAddr < s.cfg.physTop)
    (h : route s k x s.opAAddr s.opB16 = .refused t why) :
    exec (.route k x) s = .next { s with
      refused := true, devCalls := t.devCalls, draws := t.draws, answer := some (Answer.refusal why) } := by
  simp only [exec, execRoute, if_neg (Nat.not_le.2 hpa), h, finish_refuse]

theorem exec_route_of_badAddress (hpa : s.cfg.physTop ≤ s.opAAddr) :
    exec (.route k x) s = .next { s with refused := true, answer := some (Answer.refusal .badAddress) } := by
  simp only [exec, execRoute, if_pos hpa, finish_refuse]

end

/-! ### Memory -/

/-- Installed memory lies below the I/O page, so in the physical space (20_memory R89). -/
theorem lt_physTop_of_memory {c : Config} (hc : c.WF) {pa : Nat} (h : pa < c.memSize) : pa < c.physTop := by
  obtain ⟨-, -, -, hsize, -⟩ := hc
  have htop : c.ioPageBase + 8192 = c.physTop := ioPageBase_add c
  omega

/-- A word write, byte by byte (20_memory R81). -/
theorem read_memWrite_word_eq_storedByte (m : Memory) (pa : Nat) (v : Word) (a : Nat) :
    (memWrite m pa .word v).read a = storedByte v pa a (m.read a) := by
  rw [read_memWrite_word, storedByte]
  by_cases hlow : a = pa
  · rw [if_neg (by omega), if_pos hlow, if_pos hlow]
  · rw [if_neg hlow, if_neg hlow]

/-- The low byte of the write data is operand B's (30_encoding R125). -/
theorem opB16_low_byte (s : State) : s.opB16.extractLsb' 0 8 = s.ops.b.extractLsb' 0 8 :=
  BitVec.extractLsb'_setWidth_of_le (by decide)

/-- Settles O42: a routed read of memory is MemRead, and leaves the state. -/
theorem routeReadsMemory : Obligations.RouteReadsMemory := by
  unfold Obligations.RouteReadsMemory
  rintro s pa hc rfl hm
  have hpa : s.opAAddr < s.cfg.physTop := lt_physTop_of_memory hc hm
  refine ⟨?_, fun heven => ?_⟩
  · rw [exec_route_of_ok hpa ((route_aligned s .read .byte _ _ nofun).trans (routeAt_read_memory _ _ _ _ hm)),
      memRead_byte, BitVec.setWidth_setWidth (by decide)]
    rfl
  · exact exec_route_of_ok hpa ((route_aligned s .read .word _ _ fun _ => heven).trans (routeAt_read_memory _ _ _ _ hm))

/-- Settles O43: a routed write of memory is MemWrite, of which each byte is known. -/
theorem routeWritesMemory : Obligations.RouteWritesMemory := by
  unfold Obligations.RouteWritesMemory
  rintro s pa hc rfl hm
  have hpa : s.opAAddr < s.cfg.physTop := lt_physTop_of_memory hc hm
  refine ⟨⟨_, exec_route_of_ok hpa ((route_aligned s .write .byte _ _ nofun).trans (routeAt_write_memory _ _ _ _ hm)),
    fun a => ?_, rfl⟩, fun heven => ⟨_, exec_route_of_ok hpa
      ((route_aligned s .write .word _ _ fun _ => heven).trans (routeAt_write_memory _ _ _ _ hm)), fun a => ?_, rfl⟩⟩
  · rw [← opB16_low_byte]
    exact read_memWrite_byte _ _ _ _
  · exact read_memWrite_word_eq_storedByte _ _ _ _

/-! ### Nothing, and odd words -/

/-- Settles O44: neither memory nor a window holds the address. -/
theorem routeToNothingIsNxm : Obligations.RouteToNothingIsNxm := by
  unfold Obligations.RouteToNothingIsNxm
  rintro s k x pa rfl htop heven hm hnothing
  exact exec_route_of_nxm htop ((route_aligned _ _ _ _ _ heven).trans (routeAt_nothing _ _ _ _ _ hm hnothing))

section
variable {s : State} {pa : Nat}

theorem route_odd_refused (h : pa % 2 = 1) (hpolicy : s.cfg.oddWordPolicy = .refuse) (k : Kind) (d : Word) :
    route s k .word pa d = .refused s .oddWord := by
  simp only [route, h, hpolicy, and_self, if_true]

theorem route_odd_aligned (h : pa % 2 = 1) (hpolicy : s.cfg.oddWordPolicy = .alignDown) (k : Kind) (d : Word) :
    route s k .word pa d = s.routeAt k .word (pa - 1) d := by
  simp only [route, h, hpolicy, and_self, if_true]

end

theorem getLsbD_zero_eq_false_iff {w : Nat} (v : BitVec w) : v.getLsbD 0 = false ↔ v.toNat % 2 = 0 := by
  rw [← Bool.not_eq_true, BitVec.getLsbD, Nat.testBit_zero]
  simp

theorem odd_of_bit0 {w : Nat} {v : BitVec w} (h : v.getLsbD 0 = true) : v.toNat % 2 = 1 := by
  rw [BitVec.getLsbD, Nat.testBit_zero] at h
  exact of_decide_eq_true h

/-- An access keeps the operands until it ends. -/
theorem route_keptUntilEnd {s u : State} (h : KeptUntilEnd s u) (k : Kind) (x : Width) (pa : Nat) (d : Word) :
    (route u k x pa d).All (KeptUntilEnd s) :=
  route_closed (accessClosed_keptUntilEnd (.route k x) s) u k x pa d rfl h

/-- A ROUTE that with other operands reaches the same access does the same, the operands apart. -/
theorem exec_route_withOps {s : State} {k : Kind} {x : Width} {o : Operands} (hpa : s.opAAddr < s.cfg.physTop)
    (hpa' : o.a.toNat < s.cfg.physTop)
    (h : route { s with ops := o } k x o.a.toNat (o.b.setWidth 16) =
      (route s k x s.opAAddr s.opB16).map fun u => { u with ops := o }) :
    ∃ t : State, exec (.route k x) { s with ops := o } = .next t ∧
      exec (.route k x) s = .next { t with ops := s.ops } := by
  have hkept := route_keptUntilEnd (.refl s) k x s.opAAddr s.opB16
  cases hr : route s k x s.opAAddr s.opB16 with
  | ok u v =>
    rw [hr] at h hkept
    cases hkept with
    | ok hu =>
      refine ⟨_, exec_route_of_ok (s := { s with ops := o }) hpa' h, ?_⟩
      rw [exec_route_of_ok hpa hr, ← hu.ops]
  | nxm u =>
    rw [hr] at h hkept
    cases hkept with
    | nxm hu =>
      refine ⟨_, exec_route_of_nxm (s := { s with ops := o }) hpa' h, ?_⟩
      rw [exec_route_of_nxm hpa hr, ← hu.ops]
  | refused u why =>
    rw [hr] at h
    refine ⟨_, exec_route_of_refused (s := { s with ops := o }) hpa' h, ?_⟩
    rw [exec_route_of_refused hpa hr]

/-- Settles O45: the policy decides an odd word, and ALIGN_DOWN accesses the even address below. -/
theorem routeRefusesOrAlignsOddWords : Obligations.RouteRefusesOrAlignsOddWords := by
  unfold Obligations.RouteRefusesOrAlignsOddWords
  intro s k
  refine ⟨fun x hpa => exec_route_of_badAddress hpa, fun hpa hodd hpolicy => ?_, fun hpa hodd hpolicy => ?_⟩
  · exact exec_route_of_refused hpa (route_odd_refused (odd_of_bit0 hodd) hpolicy k _)
  · have hmod := odd_of_bit0 hodd
    have hbelow : (s.ops.a - 1#32).toNat = s.ops.a.toNat - 1 :=
      BitVec.toNat_sub_of_le (BitVec.le_def.2 (show 1 ≤ s.ops.a.toNat by omega))
    refine exec_route_withOps (o := { s.ops with a := s.ops.a - 1#32 }) hpa (hbelow ▸ (Nat.sub_le _ _).trans_lt hpa) ?_
    have hrelabel := route_relabel (fun _ => { s.ops with a := s.ops.a - 1#32 }) id id s k .word (s.ops.a.toNat - 1)
      s.opB16
    rw [route_aligned s _ _ _ _ (fun _ => by omega), ← route_odd_aligned hmod hpolicy] at hrelabel
    rw [hbelow]
    exact hrelabel

/-! ### Devices -/

/-- A ROUTE to a device's window is an access forwarded to its handler (43_bus R322). -/
theorem route_device {s : State} (hi : s.Inv) {w : Window} (hw : w ∈ s.windows) (hdev : w.dev ≠ BLOCK) (k : Kind)
    {x : Width} {pa : Nat} (d : Word) (hio : s.cfg.ioPageBase ≤ pa) (hlow : w.base ≤ pa) (hhigh : pa < w.limit)
    (heven : x = .word → pa % 2 = 0) : route s k x pa d = s.deviceAccess w.dev k x (pa - w.base) d := by
  rw [route_aligned _ _ _ _ _ heven, routeAt_window hi hw k x d hio hlow hhigh, if_neg hdev]

/-- Settles O46: the handler's answer, a value or Reject, is the ROUTE's. -/
theorem routeForwardsToTheDevice : Obligations.RouteForwardsToTheDevice := by
  unfold Obligations.RouteForwardsToTheDevice
  intro s x w hi hw hdev hio hlow hhigh heven
  obtain ⟨-, hlimit⟩ := hi.windowBounds w hw
  have hpa : s.opAAddr < s.cfg.physTop := hhigh.trans_le hlimit
  have hroute (k : Kind) : route s k x s.opAAddr s.opB16 = s.deviceAccess w.dev k x (s.ops.a.toNat - w.base) s.opB16 :=
    route_device hi hw hdev k _ hio hlow hhigh fun hx => (getLsbD_zero_eq_false_iff _).1 (heven hx)
  refine ⟨?_, writeData x s.opB16, ?_, ?_, ?_⟩
  · have hread := hroute .read
    simp only [State.deviceAccess] at hread
    cases hd : Config.devRead s.draws w.dev (s.ops.a.toNat - w.base) x with
    | none =>
      rw [hd] at hread
      exact exec_route_of_nxm hpa hread
    | some v =>
      rw [hd] at hread
      rw [exec_route_of_ok hpa hread]
      cases x with
      | word => rfl
      | byte => rw [readValue, BitVec.setWidth_setWidth (by decide)]
  · rintro rfl
    rfl
  · rintro rfl
    simp only [writeData, opB16_low_byte]
  · have hwrite := hroute .write
    simp only [State.deviceAccess] at hwrite
    by_cases hd : Config.devWrite s.draws w.dev (s.ops.a.toNat - w.base) x (writeData x s.opB16) = true
    · rw [if_pos hd] at hwrite ⊢
      exact exec_route_of_ok hpa hwrite
    · rw [if_neg hd] at hwrite ⊢
      exact exec_route_of_nxm hpa hwrite

/-! ### Byte writes of a built-in register (44_register_surface R372) -/

/-- The word of a byte write: the written byte in the addressed lane, the register's own in the other. -/
theorem lanes_of_laneMerge (odd : Bool) (cur data : Word) :
    if odd = true then
      (laneMerge odd cur data).extractLsb' 8 8 = data.extractLsb' 0 8 ∧
      (laneMerge odd cur data).extractLsb' 0 8 = cur.extractLsb' 0 8
    else
      (laneMerge odd cur data).extractLsb' 0 8 = data.extractLsb' 0 8 ∧
      (laneMerge odd cur data).extractLsb' 8 8 = cur.extractLsb' 8 8 := by
  cases odd <;>
    simp (disch := decide) only [laneMerge, BitVec.extractLsb'_append_eq_of_le, BitVec.extractLsb'_append_eq_of_add_le,
      Nat.reduceSub, BitVec.extractLsb'_eq_self, Bool.false_eq_true, if_true, if_false, and_self]

/-- The lane of a register's byte is bit 0 of operand A: the I/O page begins at an even address. -/
theorem lane_of_addressesRegister {s : State} {off : Nat} (ha : s.AddressesRegister off) :
    (off % 2 == 1) = s.ops.a.getLsbD 0 := by
  have ha' : s.ops.a.toNat = s.cfg.ioPageBase + off := ha
  have heven := ioPageBase_even s.cfg
  rw [BitVec.getLsbD, Nat.testBit_zero, ha', show (s.cfg.ioPageBase + off) % 2 = off % 2 by omega,
    Bool.beq_eq_decide_eq]

/-- A register write does not look at the operands, and leaves them. -/
theorem regWrite_withOps (s : State) (o : Operands) (r : Reg) (v : Word) :
    { ({ s with ops := o } : State).regWrite r v with ops := s.ops } = s.regWrite r v := by
  have hrelabel : ({ s with ops := o } : State).regWrite r v = { s.regWrite r v with ops := o } :=
    regWrite_relabel (fun _ => o) id id s r v
  rw [hrelabel, regWrite_frame]

/-- Settles O27: both writes are RegWrite of the merged word, and the register is the one the even address names. -/
theorem registerByteWriteMerges : Obligations.RegisterByteWriteMerges := by
  unfold Obligations.RegisterByteWriteMerges
  rintro s e hi hbuiltin rfl
  obtain ⟨off, r, w, hw, ha, hlow, hhigh, hr⟩ := register_of_addressesBuiltin hi hbuiltin
  refine ⟨s.regRead r, laneMerge (off % 2 == 1) (s.regRead r) s.opB16, _, ?_, ?_,
    exec_route_writeRegister (hi.withOps _) (addressesRegister_even ha _ _ _) hr (by omega), ?_⟩
  · rw [exec_route_readRegister (hi.withOps _) (addressesRegister_even ha _ _ _) hr (by omega), regRead_withOps]
  · have hlanes := lanes_of_laneMerge (off % 2 == 1) (s.regRead r) s.opB16
    rw [opB16_low_byte, lane_of_addressesRegister ha] at hlanes
    rw [lane_of_addressesRegister ha]
    exact hlanes
  · rw [exec_route_of_builtin (x := .byte) hi hw ha hlow hhigh nofun (regAccess_writeByte hr _)]
    have hdata (v : Word) : (v.setWidth 32).setWidth 16 = v := by
      rw [BitVec.setWidth_setWidth (by decide), BitVec.setWidth_eq]
    rw [← regWrite_withOps s ⟨BitVec.ofNat 32 (s.ops.a.toNat - s.ops.a.toNat % 2),
      (laneMerge (off % 2 == 1) (s.regRead r) s.opB16).setWidth 32, s.ops.c, s.ops.d⟩]
    simp only [State.opB16, hdata]
    rfl

end Sys2Proof.Machine
end

section
/-! DEV_REGISTER that fails and DEV_UNREGISTER (43_bus R330 to R336). -/

namespace Sys2Proof.Machine

section
variable {s : State} {l : Level} {n : BitVec 6}

theorem exec_devRegister_of_illegal
    (h : s.opCDev = BLOCK ∨ s.opBAddr ≤ s.opAAddr ∨ s.cfg.physTop < s.opBAddr ∨ s.cfg.nslots < n.toNat) :
    exec (.devRegister l n) s =
      .next { s with refused := true, answer := some (Answer.refusal .badRegistration) } := by
  simp only [exec, execDevRegister, if_pos h, finish_refuse]

theorem exec_devRegister_of_overlap
    (hlegal : ¬ (s.opCDev = BLOCK ∨ s.opBAddr ≤ s.opAAddr ∨ s.cfg.physTop < s.opBAddr ∨ s.cfg.nslots < n.toNat))
    (h : s.windows.any (overlaps s.opAAddr s.opBAddr) = true) :
    exec (.devRegister l n) s = .next { s with configError := true, answer := some (Answer.bare .overlap) } := by
  simp only [exec, execDevRegister, if_neg hlegal, if_pos h, finish_answer]

theorem exec_devRegister_of_exhausted
    (hlegal : ¬ (s.opCDev = BLOCK ∨ s.opBAddr ≤ s.opAAddr ∨ s.cfg.physTop < s.opBAddr ∨ s.cfg.nslots < n.toNat))
    (hdisjoint : s.windows.any (overlaps s.opAAddr s.opBAddr) = false) (h : s.firstSlot l n.toNat = none) :
    exec (.devRegister l n) s =
      .next { s with configError := true, answer := some (Answer.bare .slotsExhausted) } := by
  simp only [exec, execDevRegister, if_neg hlegal, hdisjoint, h, Bool.false_eq_true, if_false, finish_answer]

/-- No run of slots is free at a level without slots, or at one whose every run holds an owned slot (43_bus R333). -/
theorem firstSlot_eq_none {n : Nat} (hn : n ≠ 0)
    (h : l.toNat < 4 ∨ ∀ k, k + n ≤ s.cfg.nslots → ∃ i < n, s.ownerAt l (k + i) ≠ none) : s.firstSlot l n = none := by
  rw [State.firstSlot, if_neg hn, freeRun_eq_none]
  intro k hk
  unfold slotCapacity at hk
  split at hk
  · exact h.resolve_left (by omega) k hk
  · omega

end

/-- Settles O52: the three failures are the branches before the registration. -/
theorem devRegisterFailsClosed : Obligations.DevRegisterFailsClosed := by
  unfold Obligations.DevRegisterFailsClosed
  intro s l n
  refine ⟨fun h => exec_devRegister_of_illegal h, fun hdev hwindow htop hcount => ?_⟩
  have hlegal : ¬ (s.opCDev = BLOCK ∨ s.opBAddr ≤ s.opAAddr ∨ s.cfg.physTop < s.opBAddr ∨
      s.cfg.nslots < n.toNat) := by
    simp only [not_or, Nat.not_le, Nat.not_lt]
    exact ⟨hdev, hwindow, htop, hcount⟩
  refine ⟨fun ⟨w, hw, hover⟩ => ?_, fun hdisjoint hn hfull => ?_⟩
  · exact exec_devRegister_of_overlap hlegal (List.any_eq_true.2 ⟨w, hw, (overlaps_iff _ _ w).2 hover⟩)
  · have hn' : n.toNat ≠ 0 := (BitVec.toNat_ne_iff_ne (x := n) (y := 0#6)).2 hn
    exact exec_devRegister_of_exhausted hlegal ((any_overlaps_eq_false _ _ _).2 hdisjoint) (firstSlot_eq_none hn' hfull)

theorem exec_devUnregister_of_device {s : State} (h : s.opADev ≠ BLOCK) :
    exec .devUnregister s = .next {
      (s.unregister s.opADev).reevaluate s.iplShadow with answer := some (Answer.bare .ok) } := by
  simp only [exec, execDevUnregister, if_neg h, finish_answer]

theorem exec_devUnregister_of_block {s : State} (h : s.opADev = BLOCK) :
    exec .devUnregister s = .next { s with refused := true, answer := some (Answer.refusal .builtinWindow) } := by
  simp only [exec, execDevUnregister, if_pos h, finish_refuse]

/-- A slot that the device holds is free, without vector and without request after the removal (43_bus R334). -/
theorem unregister_of_held {s : State} {dev : DevId} {l : Level} {k : Nat} (hk : k < 32)
    (h : s.slotHeldBy dev l k = true) :
    (s.unregister dev).ownerAt l k = none ∧ (s.unregister dev).vecAt l k = 0#16 ∧
    ((s.unregister dev).pendAt l).getLsbD k = false := by
  rw [ownerAt_unregister s dev l k hk, vecAt_unregister s dev l k hk, pendAt_unregister s dev l k hk, h]
  exact ⟨rfl, rfl, Bool.and_false _⟩

/-- Every other slot is as before the removal (43_bus R334). -/
theorem unregister_of_not_held {s : State} {dev : DevId} {l : Level} {k : Nat} (hk : k < 32)
    (h : s.slotHeldBy dev l k = false) :
    (s.unregister dev).ownerAt l k = s.ownerAt l k ∧ (s.unregister dev).vecAt l k = s.vecAt l k ∧
    ((s.unregister dev).pendAt l).getLsbD k = (s.pendAt l).getLsbD k := by
  rw [ownerAt_unregister s dev l k hk, vecAt_unregister s dev l k hk, pendAt_unregister s dev l k hk, h]
  exact ⟨rfl, rfl, Bool.and_true _⟩

/-- Settles O53: the removal, slot by slot, and the re-evaluation. -/
theorem devUnregisterRemovesTheDevice : Obligations.DevUnregisterRemovesTheDevice := by
  unfold Obligations.DevUnregisterRemovesTheDevice
  intro s hc
  obtain ⟨-, hslots, -⟩ := hc
  refine ⟨fun hdev => ?_, fun hdev => exec_devUnregister_of_block hdev⟩
  refine ⟨_, exec_devUnregister_of_device hdev, ?_, ?_, ?_, ?_, ?_, ?_⟩
  · rfl
  · intro l k hk howner
    exact unregister_of_held (s := s) (dev := s.ops.a) (hk.trans_le hslots) ((slotHeldBy_iff _ _ _ _).2 ⟨hk, howner⟩)
  · intro l k hk hother
    exact unregister_of_not_held (s := s) (dev := s.ops.a) hk
      (Bool.eq_false_iff.2 fun h => hother ((slotHeldBy_iff _ _ _ _).1 h))
  · exact reevaluate_bit15 (s.unregister s.ops.a) s.iplShadow
  · exact reevaluate_other_bits (s.unregister s.ops.a) s.iplShadow
  · rfl

end Sys2Proof.Machine
end

section
/-! ACCESS of mapped memory, with a fault, and as a ROUTE of the translated address (43_bus R326, R327). -/

namespace Sys2Proof.Machine

/-! ### Mapped memory -/

section
variable {s : State} {m : Mode} {sp : Space} {slot : BitVec 6} {pa : Nat} {x : Width}

/-- An aligned ACCESS read of mapped memory answers MemRead and changes nothing else. -/
theorem exec_access_readMapped (ha : x = .word → s.ops.a.getLsbD 0 = false) (hslot : IsSlot slot m sp s.opA16)
    (hmap : s.Maps slot .read s.opA16 pa) (hm : pa < s.cfg.memSize) :
    exec (.access m sp .read x) s = .next { s with
      answer := some ⟨.ok, (memRead s.mem pa x).setWidth 32, BitVec.ofNat 32 pa, 0#32, 0#32, none⟩ } := by
  have hbit (hx : x = .word) : s.opA16.getLsbD 0 = false := (opA16_bit0 s).trans (ha hx)
  exact exec_access_of_ok (translate_of_maps (fun hx _ => hbit hx) hslot hmap)
    ((route_aligned _ _ _ _ _ fun hx => Maps_even hmap (hbit hx)).trans (routeAt_read_memory _ _ _ _ hm))

/-- An aligned ACCESS write of mapped memory stores the data and sets the dirty bit. -/
theorem exec_access_writeMapped (ha : x = .word → s.ops.a.getLsbD 0 = false) (hslot : IsSlot slot m sp s.opA16)
    (hmap : s.Maps slot .write s.opA16 pa) (hm : pa < s.cfg.memSize) :
    exec (.access m sp .write x) s = .next { s with
      desc := s.written slot, mem := memWrite s.mem pa x s.opB16
      answer := some ⟨.ok, 0#32, BitVec.ofNat 32 pa, 0#32, 0#32, none⟩ } := by
  have hbit (hx : x = .word) : s.opA16.getLsbD 0 = false := (opA16_bit0 s).trans (ha hx)
  exact exec_access_of_ok (translate_of_maps (fun hx _ => hbit hx) hslot hmap)
    ((route_aligned _ _ _ _ _ fun hx => Maps_even hmap (hbit hx)).trans (routeAt_write_memory _ _ _ _ hm))

end

/-- Settles O47: a byte and a word read of mapped memory. -/
theorem accessReadsMappedMemory : Obligations.AccessReadsMappedMemory := by
  unfold Obligations.AccessReadsMappedMemory
  intro s m sp slot pa _ hslot hmap hm
  refine ⟨?_, fun heven => exec_access_readMapped (fun _ => heven) hslot hmap hm⟩
  rw [exec_access_readMapped (x := .byte) nofun hslot hmap hm, memRead_byte, BitVec.setWidth_setWidth (by decide)]

/-- Settles O48: a byte and a word write of mapped memory, each byte of which is known. -/
theorem accessWritesMappedMemory : Obligations.AccessWritesMappedMemory := by
  unfold Obligations.AccessWritesMappedMemory
  intro s m sp slot pa _ hslot hmap hm
  refine ⟨⟨_, exec_access_writeMapped nofun hslot hmap hm, fun a => ?_, rfl⟩, fun heven =>
    ⟨_, exec_access_writeMapped (fun _ => heven) hslot hmap hm, fun a => ?_, rfl⟩⟩
  · rw [← opB16_low_byte]
    exact read_memWrite_byte _ _ _ _
  · exact read_memWrite_word_eq_storedByte _ _ _ _

/-! ### Faults -/

/-- A fault of a translation writes the fault record alone. -/
theorem translate_fault_frame {s s1 : State} {m : Mode} {sp : Space} {k : Kind} {w : Width} {va pc : Word}
    {f : TransFault} (h : translate s m sp k w va pc = (s1, .error f)) : s1 = { s with fr := s1.fr } := by
  have hcase := translate_cases s m sp k w va pc
  rw [h] at hcase
  cases hcase with
  | odd => rfl
  | nonResident => rw [latch_eq]
  | pageLength => rw [latch_eq]
  | readOnly => rw [latch_eq]

/-- A name that the table holds once is posted at its slot (41_trapunit R241). -/
theorem postNamed_of_isTrapSlot {s : State} {n : TrapName} {k : Fin 15} (hcount : s.cfg.nameCount n = 1)
    (hk : IsTrapSlot s.cfg n k) : s.postNamed n = s.postTrap k.val := by
  simp only [State.postNamed, trapSlot_of_isTrapSlot hcount hk]

/-- A translation with other operands latched in the state is the same translation, the operands apart. -/
theorem translate_withOps (s : State) (o : Operands) (m : Mode) (sp : Space) (k : Kind) (w : Width) (va pc : Word) :
    translate { s with ops := o } m sp k w va pc =
      ({ (translate s m sp k w va pc).1 with ops := o }, (translate s m sp k w va pc).2) :=
  translate_relabel (fun _ => o) id id s m sp k w va pc

/-- Posting the slot of a fault sets one bit (43_bus R326). -/
theorem postNamed_fault_bits {s : State} (hc : s.cfg.WF) {odd mme : Fin 15} (hodd : IsTrapSlot s.cfg .odd odd)
    (hmme : IsTrapSlot s.cfg .mme mme) (f : TransFault) {j : Nat} (hj : j < 16) :
    (s.postNamed (faultTrap f)).trapmask.getLsbD j =
      (s.trapmask.getLsbD j || decide (j = if f.status = .oddAddress then odd.val else mme.val)) := by
  obtain ⟨-, -, -, -, hcountOdd, hcountMme, -⟩ := hc
  cases f with
  | odd => exact (postNamed_of_isTrapSlot hcountOdd hodd).symm ▸ getLsbD_postTrap s odd.val hj
  | _ => exact (postNamed_of_isTrapSlot hcountMme hmme).symm ▸ getLsbD_postTrap s mme.val hj

/-- Settles O49: the translation of ACCESS is TRANSLATE's, and a fault posts its slot. -/
theorem accessFaultPostsItsTrap : Obligations.AccessFaultPostsItsTrap := by
  unfold Obligations.AccessFaultPostsItsTrap
  intro s t m sp k x a odd mme hc hodd hmme he ha hstatus
  have htr := translate_withOps s { s.ops with b := s.ops.c } m sp k x s.opA16 s.opC16
  cases h : translate s m sp k x s.opA16 s.opC16 with
  | mk s1 result =>
    rw [h] at htr
    cases result with
    | ok pa =>
      rw [exec_translate_of_ok (s := { s with ops := { s.ops with b := s.ops.c } }) htr] at he
      cases he
      cases ha
      exact absurd rfl hstatus
    | error f =>
      rw [exec_translate_of_fault (s := { s with ops := { s.ops with b := s.ops.c } }) htr] at he
      cases he
      cases ha
      have hframe := translate_fault_frame h
      refine ⟨_, exec_access_of_fault h, fun j hj => ?_, ?_⟩
      · rw [hframe]
        exact postNamed_fault_bits (s := { s with fr := s1.fr }) hc hodd hmme f hj
      · rw [postNamed_frame, hframe]

/-! ### ACCESS as a ROUTE -/

theorem translate_keptUntilEnd (s : State) (m : Mode) (sp : Space) (k : Kind) (w : Width) (va pc : Word) :
    KeptUntilEnd s (translate s m sp k w va pc).1 :=
  translate_closed (accessClosed_keptUntilEnd (.translate m sp k w) s) s m sp k w va pc rfl (.refl s)

/-- An address of the physical space is a 32-bit operand. -/
theorem toNat_ofNat_of_lt_physTop {c : Config} {pa : Nat} (h : pa < c.physTop) : (BitVec.ofNat 32 pa).toNat = pa := by
  rw [BitVec.toNat_ofNat, Nat.mod_eq_of_lt]
  refine h.trans ?_
  unfold Config.physTop
  cases c.paw <;> decide

/-- A ROUTE of the translated address, in the state that the translation leaves, ends as the route of ACCESS does;
ACCESS has its own operands and answer, and posts the NXM slot where the route ends with NXM. -/
theorem exec_access_of_exec_route {s s1 u : State} {m : Mode} {sp : Space} {k : Kind} {x : Width} {pa : Nat}
    {o : Operands} {b : Option Answer} {r : Answer} {nxm : Fin 15} (hcount : s.cfg.nameCount .nxm = 1)
    (hnxm : IsTrapSlot s.cfg .nxm nxm) (h : translate s m sp k x s.opA16 s.opC16 = (s1, .ok pa))
    (hoa : o.a = BitVec.ofNat 32 pa) (hob : o.b = s.ops.b)
    (hu : exec (.route k x) (s1.relabel (fun _ => o) id (fun _ => b)) = .next u) (hr : u.answer = some r) :
    (r.status = .ok → exec (.access m sp k x) s = .next { u with
      ops := s.ops, answer := some ⟨.ok, r.q0, BitVec.ofNat 32 pa, 0#32, 0#32, none⟩ }) ∧
    (r.status = .nxm → ∃ v : State, exec (.access m sp k x) s = .next v ∧
      (∀ j < 16, v.trapmask.getLsbD j = (u.trapmask.getLsbD j || decide (j = nxm.val))) ∧
      v = { u with ops := s.ops, trapmask := v.trapmask, answer := some r }) := by
  have hkept : KeptUntilEnd s s1 := by
    have hkept := translate_keptUntilEnd s m sp k x s.opA16 s.opC16
    rw [h] at hkept
    exact hkept
  have hpa : pa < s1.cfg.physTop := by
    rw [hkept.cfg]
    exact translate_address_lt h
  obtain rfl : o.a.toNat = pa := by rw [hoa, toNat_ofNat_of_lt_physTop hpa]
  have hdata : s.opB16 = o.b.setWidth 16 := by rw [hob]; rfl
  have hroute := route_relabel (fun _ => o) id (fun _ => b) s1 k x o.a.toNat (o.b.setWidth 16)
  have hkeptRoute := route_keptUntilEnd hkept k x o.a.toNat (o.b.setWidth 16)
  cases hrt : route s1 k x o.a.toNat (o.b.setWidth 16) with
  | ok s2 v =>
    rw [hrt] at hroute hkeptRoute
    rw [← hdata] at hrt
    rw [exec_route_of_ok (s := s1.relabel (fun _ => o) id (fun _ => b)) hpa hroute] at hu
    cases hu
    cases hr
    refine ⟨fun _ => ?_, nofun⟩
    cases hkeptRoute with
    | ok hs2 =>
    rw [exec_access_of_ok h hrt, ← hs2.ops]
    rfl
  | nxm s2 =>
    rw [hrt] at hroute hkeptRoute
    rw [← hdata] at hrt
    rw [exec_route_of_nxm (s := s1.relabel (fun _ => o) id (fun _ => b)) hpa hroute] at hu
    cases hu
    cases hr
    cases hkeptRoute with
    | nxm hs2 =>
    refine ⟨nofun, fun _ => ⟨_, exec_access_of_nxm h hrt, fun j hj => ?_, ?_⟩⟩
    · rw [← hs2.cfg] at hcount hnxm
      rw [postNamed_of_isTrapSlot hcount hnxm]
      exact getLsbD_postTrap s2 nxm.val hj
    · rw [postNamed_frame, ← hs2.ops]
      rfl
  | refused s2 why =>
    rw [hrt] at hroute
    rw [exec_route_of_refused (s := s1.relabel (fun _ => o) id (fun _ => b)) hpa hroute] at hu
    cases hu
    cases hr
    exact ⟨nofun, nofun⟩

/-- Settles O50: the route of ACCESS is ROUTE's, from the state the translation leaves. -/
theorem accessRoutesTheTranslatedAddress : Obligations.AccessRoutesTheTranslatedAddress := by
  unfold Obligations.AccessRoutesTheTranslatedAddress
  intro s t u m sp k x a r nxm hc hnxm he ha hstatus hu hr
  have htr := translate_withOps s { s.ops with b := s.ops.c } m sp k x s.opA16 s.opC16
  cases h : translate s m sp k x s.opA16 s.opC16 with
  | mk s1 result =>
    rw [h] at htr
    cases result with
    | error f =>
      rw [exec_translate_of_fault (s := { s with ops := { s.ops with b := s.ops.c } }) htr] at he
      cases he
      cases ha
      cases f <;> cases hstatus
    | ok pa =>
      rw [exec_translate_of_ok (s := { s with ops := { s.ops with b := s.ops.c } }) htr] at he
      cases he
      cases ha
      obtain ⟨-, -, -, -, -, -, hcount, -⟩ := hc
      exact exec_access_of_exec_route (o := { s.ops with a := BitVec.ofNat 32 pa })
        (b := some ⟨.ok, BitVec.ofNat 32 pa, 0#32, 0#32, 0#32, none⟩) hcount hnxm h rfl rfl hu hr

end Sys2Proof.Machine
end

section
/-! Trap entry: the four accesses of DISPATCH where they reach memory (41_trapunit R249 to R251). -/

namespace Sys2Proof.Machine

/-! ### Memory words of DISPATCH -/

/-- Setting dirty bits moves no page: an access maps as before. -/
theorem State.KernelWord.congr {s t : State} {k : Kind} {va : Word} {pa : Nat} (h : s.KernelWord k va pa)
    (hcfg : t.cfg = s.cfg) (henable : t.enable = s.enable) (hext : t.ext = s.ext)
    (hdesc : ∀ slot, ∃ wr, t.descAt slot = { s.descAt slot with wr := wr }) : t.KernelWord k va pa := by
  obtain ⟨heven, hm, slot, hslot, hmap⟩ := h
  obtain ⟨wr, hwr⟩ := hdesc slot
  refine ⟨heven, hcfg ▸ hm, slot, hslot, ?_⟩
  rw [State.Maps, henable, hcfg, hext, hwr]
  exact hmap

theorem State.EntryWords.congr {s t : State} {V ksp : Word} {v1 v2 p1 p2 : Nat} (h : s.EntryWords V ksp v1 v2 p1 p2)
    (hcfg : t.cfg = s.cfg) (henable : t.enable = s.enable) (hext : t.ext = s.ext) (hdesc : t.desc = s.desc) :
    t.EntryWords V ksp v1 v2 p1 p2 := by
  have hat (slot : BitVec 6) : ∃ wr, t.descAt slot = { s.descAt slot with wr := wr } :=
    ⟨(s.descAt slot).wr, by rw [State.descAt, hdesc]; rfl⟩
  exact ⟨h.newPc.congr hcfg henable hext hat, h.newStatus.congr hcfg henable hext hat,
    h.oldPsw.congr hcfg henable hext hat, h.oldPc.congr hcfg henable hext hat⟩

/-- The state after DISPATCH pushes a word at `va` to `pa`. -/
def State.pushed (s : State) (va : Word) (pa : Nat) (v : Word) : State :=
  { s with desc := s.written (slotOf .kernel .data va), mem := memWrite s.mem pa .word v }

theorem kWrite_pushed {s : State} {va : Word} {pa : Nat} (h : s.KernelWord .write va pa) (pc v : Word) :
    kWrite s pc va v = .ok (s.pushed va pa v) 0#16 :=
  kWrite_of_kernelWord h (isSlot_slotOf _ _ _)

theorem pushed_enable (s : State) (va : Word) (pa : Nat) (v : Word) : (s.pushed va pa v).enable = s.enable := rfl

/-- A push sets the dirty bit of its page, with translation enabled (40_pagetable R206). -/
theorem descAt_pushed (s : State) (va : Word) (pa : Nat) (v : Word) (slot : BitVec 6) :
    (s.pushed va pa v).descAt slot =
      if s.enable = true ∧ IsSlot slot .kernel .data va then { s.descAt slot with wr := true } else s.descAt slot := by
  have hiff := isSlot_iff slot .kernel .data va
  by_cases he : s.enable = true
  · have hset : (s.pushed va pa v).descAt slot =
        (s.setDesc (slotOf .kernel .data va) { s.descAt (slotOf .kernel .data va) with wr := true }).descAt slot := by
      simp only [State.descAt, State.pushed, State.written, if_pos he, State.setDesc_desc]
    rw [hset, descAt_setDesc]
    by_cases hslot : slot = slotOf .kernel .data va
    · rw [if_pos hslot, if_pos ⟨he, hiff.2 hslot⟩, hslot]
    · rw [if_neg hslot, if_neg fun h => hslot (hiff.1 h.2)]
  · rw [if_neg fun h => he h.1]
    simp only [State.descAt, State.pushed, State.written, if_neg he]

/-- A push changes no more of a descriptor than the dirty bit. -/
theorem descAt_pushed_dirty (s : State) (va : Word) (pa : Nat) (v : Word) (slot : BitVec 6) :
    ∃ wr, (s.pushed va pa v).descAt slot = { s.descAt slot with wr := wr } := by
  rw [descAt_pushed]
  split
  · exact ⟨true, rfl⟩
  · exact ⟨(s.descAt slot).wr, rfl⟩

theorem read_pushed (s : State) (va : Word) (pa : Nat) (v : Word) (a : Nat) :
    (s.pushed va pa v).mem.read a = storedByte v pa a (s.mem.read a) :=
  read_memWrite_word_eq_storedByte _ _ _ _

/-- A second push finds its word where it stood before the first. -/
theorem State.KernelWord.pushed {s : State} {k : Kind} {va va' : Word} {pa pa' : Nat} (h : s.KernelWord k va' pa')
    (v : Word) : (s.pushed va pa v).KernelWord k va' pa' :=
  h.congr rfl rfl rfl (descAt_pushed_dirty s va pa v)

/-! ### The entry -/

/-- The state in which a trap entry ends, before the re-evaluation: the old PSW pushed, then the old PC. -/
def State.entered (s : State) (pc psw ksp : Word) (p1 p2 : Nat) : State :=
  (s.pushed (ksp - 2#16) p1 psw).pushed (ksp - 4#16) p2 pc

/-- The memory word at an address (20_memory R81). -/
def wordAt (s : State) (pa : Nat) : Word := s.mem.read (pa + 1) ++ s.mem.read pa

/-- A trap entry whose four words are in memory completes (41_trapunit R250, R251). -/
theorem enterTrap_of_entryWords {s : State} {V ksp : Word} {v1 v2 p1 p2 : Nat} (h : s.EntryWords V ksp v1 v2 p1 p2)
    (pc psw : Word) :
    s.enterTrap V pc psw ksp = .answer
      ((s.entered pc psw ksp p1 p2).reevaluate (pswIpl (newPsw psw (wordAt s v2))))
      (Answer.results .ok (result16 (wordAt s v1)) (result16 (newPsw psw (wordAt s v2))) (result16 (ksp - 4#16))
        (result16 V)) := by
  simp only [State.enterTrap, KernelAccess.andThen, kRead_of_kernelWord h.newPc, kRead_of_kernelWord h.newStatus,
    kWrite_pushed h.oldPsw, kWrite_pushed (h.oldPc.pushed psw)]
  rfl

/-- The page of either push is written. -/
theorem descAt_entered (s : State) (pc psw ksp : Word) (p1 p2 : Nat) (slot : BitVec 6) :
    (s.entered pc psw ksp p1 p2).descAt slot =
      if s.enable = true ∧ (IsSlot slot .kernel .data (ksp - 2#16) ∨ IsSlot slot .kernel .data (ksp - 4#16)) then
        { s.descAt slot with wr := true } else s.descAt slot := by
  rw [State.entered, descAt_pushed]
  by_cases h4 : s.enable = true ∧ IsSlot slot .kernel .data (ksp - 4#16)
  · obtain ⟨wr, hwr⟩ := descAt_pushed_dirty s (ksp - 2#16) p1 psw slot
    rw [pushed_enable, if_pos h4, if_pos ⟨h4.1, .inr h4.2⟩, hwr]
  · rw [pushed_enable, if_neg h4, descAt_pushed]
    exact if_congr (by tauto) rfl rfl

/-- The old PSW is pushed first. -/
theorem read_entered (s : State) (pc psw ksp : Word) (p1 p2 : Nat) (a : Nat) :
    (s.entered pc psw ksp p1 p2).mem.read a = storedByte pc p2 a (storedByte psw p1 a (s.mem.read a)) := by
  rw [State.entered, read_pushed, read_pushed]

/-- A completed entry is what EntersTrap says. -/
theorem entersTrap_entered (s : State) (V pc psw ksp : Word) (v1 v2 p1 p2 : Nat) :
    EntersTrap s { (s.entered pc psw ksp p1 p2).reevaluate (pswIpl (newPsw psw (wordAt s v2))) with
      answer := some (Answer.results .ok (result16 (wordAt s v1)) (result16 (newPsw psw (wordAt s v2)))
        (result16 (ksp - 4#16)) (result16 V)) } V pc psw ksp v1 v2 p1 p2 where
  answer := ⟨wordAt s v2, newPsw psw (wordAt s v2), rfl, newPsw_mode _ _, newPsw_previous _ _, newPsw_low _ _,
    newPsw_ipl _ _, rfl⟩
  memory a := read_entered s pc psw ksp p1 p2 a
  descriptors slot := descAt_entered s pc psw ksp p1 p2 slot
  interruptBit := reevaluate_bit15 _ _
  trapBits j hj := reevaluate_other_bits _ _ j hj
  frame := rfl

/-- A trap entry whose four words are in memory ends in an answered state that EntersTrap describes. -/
theorem finish_enterTrap {c : State} {V ksp : Word} {v1 v2 p1 p2 : Nat} (h : c.EntryWords V ksp v1 v2 p1 p2) (s : State)
    (pc psw : Word) :
    ∃ t, finish s (c.enterTrap V pc psw ksp) = .next t ∧ EntersTrap c t V pc psw ksp v1 v2 p1 p2 := by
  rw [enterTrap_of_entryWords h, finish_answer]
  exact ⟨_, rfl, entersTrap_entered c V pc psw ksp v1 v2 p1 p2⟩

end Sys2Proof.Machine
end

section
/-! DISPATCH (41_trapunit R246 to R254): which event it chooses, and how it ends. -/

namespace Sys2Proof.Machine

/-! ### The event that DISPATCH chooses -/

section
variable {s : State}

theorem exec_dispatch_of_none (h : s.highestPending = none) :
    exec .dispatch s = .next { s with answer := some (dispatchNone s) } := by
  simp only [exec, execDispatch, h, finish_answer]

theorem exec_dispatch_of_trap {k : Fin 15} (h : s.highestPending = some k.val) :
    exec .dispatch s =
      finish s ((clearServiced s k).enterTrap s.cfg.trapTable[k].vector s.opA16 s.opB16 s.opC16) := by
  simp only [exec, execDispatch, h, dif_pos k.isLt]
  rfl

theorem exec_dispatch_of_ack {s1 : State} {a : Ack} (h : s.highestPending = some 15)
    (ha : s.acknowledge (pswIpl s.opB16) = (s1, some a)) :
    exec .dispatch s = finish s (s1.enterTrap a.vector s.opA16 s.opB16 s.opC16) := by
  simp only [exec, execDispatch, h, ha, lt_irrefl, dif_neg, not_false_eq_true]

theorem exec_dispatch_of_stale {s1 : State} (h : s.highestPending = some 15)
    (ha : s.acknowledge (pswIpl s.opB16) = (s1, none)) :
    exec .dispatch s = .next { s1.reevaluate (pswIpl s.opB16) with answer := some (dispatchNone s) } := by
  simp only [exec, execDispatch, h, ha, lt_irrefl, dif_neg, not_false_eq_true, finish_answer]

/-- With slot 15 alone pending it is the highest (41_trapunit R242). -/
theorem highestPending_slot15 (h : s.trapmask = 0x8000#16) : s.highestPending = some 15 := by
  rw [highestPending_eq_some, h]
  decide

/-- The least pending slot below 15 is the highest (41_trapunit R242). -/
theorem highestPending_trap {k : Fin 15} (hset : s.trapmask.getLsbD k.val = true)
    (hlow : ∀ j < k.val, s.trapmask.getLsbD j = false) : s.highestPending = some k.val :=
  (highestPending_eq_some s k.val).2 ⟨by omega, hset, hlow⟩

end

/-- The PSW's priority is bits 7:5 of operand B (10_state R32, 30_encoding R125). -/
theorem pswIpl_opB16 (s : State) : pswIpl s.opB16 = s.ops.b.extractLsb' 5 3 :=
  BitVec.extractLsb'_setWidth_of_le (by decide)

/-- Choosing a trap slot writes the trap mask alone: the slot is cleared unless it persists (41_trapunit R247, R248). -/
theorem clearServiced_eq (s : State) (k : Fin 15) :
    clearServiced s k =
      { s with trapmask := if k ∈ s.cfg.persistSet then s.trapmask else clearBit s.trapmask k.val } := by
  unfold clearServiced
  by_cases h : k ∈ s.cfg.persistSet
  · simp only [if_pos h]
  · simp only [if_neg h]
    rfl

theorem getLsbD_clearServiced (s : State) (k : Fin 15) (j : Nat) :
    (clearServiced s k).trapmask.getLsbD j =
      (s.trapmask.getLsbD j && !(decide (j = k.val) && decide (k ∉ s.cfg.persistSet))) := by
  rw [clearServiced_eq]
  by_cases h : k ∈ s.cfg.persistSet <;> simp [h]

/-! ### Nothing to service -/

/-- Settles O30: an empty mask has no highest slot, and a stale slot 15 nothing to acknowledge. -/
theorem dispatchWithNothingToService : Obligations.DispatchWithNothingToService := by
  unfold Obligations.DispatchWithNothingToService
  rintro s idle rfl
  refine ⟨fun hempty => exec_dispatch_of_none ((highestPending_eq_none s).2 hempty), fun hmask hnone => ?_⟩
  rw [← pswIpl_opB16] at hnone ⊢
  have hquiet (l : Level) (hl : pswIpl s.opB16 < l) : s.pendAt l = 0#32 ∧ s.pirqAt l = false := by
    have hl' := not_or.1 fun hreq => hnone ⟨l, hl, hreq⟩
    exact ⟨not_not.1 hl'.1, Bool.eq_false_iff.2 hl'.2⟩
  have hack : s.acknowledge (pswIpl s.opB16) = (s, none) :=
    acknowledge_of_none ((deviceRequest_eq_none _ _).2 fun l hl => (hquiet l hl).1)
      ((softwareRequest_eq_none _ _).2 fun l hl => (hquiet l hl).2)
  have haggregate : s.aggregate (pswIpl s.opB16) = false :=
    Bool.eq_false_iff.2 fun h => hnone ((aggregate_iff _ _).1 h)
  rw [exec_dispatch_of_stale (highestPending_slot15 hmask) hack, State.reevaluate, haggregate, hmask]
  rfl

/-! ### Traps and interrupts entered -/

/-- Settles O31: the least pending slot is chosen, and its entry completes. -/
theorem dispatchEntersTheHighestTrap : Obligations.DispatchEntersTheHighestTrap := by
  unfold Obligations.DispatchEntersTheHighestTrap
  rintro s k V v1 v2 p1 p2 - hset hlow rfl hwords
  have hframe := clearServiced_eq s k
  have hwords' : (clearServiced s k).EntryWords s.cfg.trapTable[k].vector s.opC16 v1 v2 p1 p2 := by
    rw [hframe]
    exact hwords.congr rfl rfl rfl rfl
  obtain ⟨t, ht, henters⟩ := finish_enterTrap hwords' s s.opA16 s.opB16
  refine ⟨clearServiced s k, t, (exec_dispatch_of_trap (highestPending_trap hset hlow)).trans ht, ?_,
    fun j _ => getLsbD_clearServiced s k j, henters⟩
  rw [hframe]

/-- Settles O32: Acknowledge clears the request, and the entry completes. -/
theorem dispatchEntersTheDeviceInterrupt : Obligations.DispatchEntersTheDeviceInterrupt := by
  unfold Obligations.DispatchEntersTheDeviceInterrupt
  intro s l k v1 v2 p1 p2 _ hmask hp hhigh hset hlow hwords
  rw [← pswIpl_opB16] at hp
  have hack := acknowledge_of_deviceRequest (deviceRequest_eq_some hp hhigh hset hlow)
  have hwords' : (s.setPend l (clearBit (s.pendAt l) k.val)).EntryWords (s.vecAt l k.val) s.opC16 v1 v2 p1 p2 :=
    hwords.congr rfl rfl rfl rfl
  obtain ⟨t, ht, henters⟩ := finish_enterTrap hwords' s s.opA16 s.opB16
  exact ⟨_, t, (exec_dispatch_of_ack (highestPending_slot15 hmask) hack).trans ht, rfl,
    fun l' j _ => getLsbD_pendAt_clearBit s l l' k.val j, henters⟩

/-- Settles O33: Acknowledge takes the highest software request and leaves the state, and the entry completes. -/
theorem dispatchEntersTheSoftwareInterrupt : Obligations.DispatchEntersTheSoftwareInterrupt := by
  unfold Obligations.DispatchEntersTheSoftwareInterrupt
  intro s j l v1 v2 p1 p2 _ hmask hl hp hnone hset hhigh hwords
  rw [← pswIpl_opB16] at hp hnone
  have hack := acknowledge_of_softwareRequest ((deviceRequest_eq_none _ _).2 hnone)
    (softwareRequest_of_bits hl hp hset hhigh)
  rw [swiVector_eq s.cfg hl] at hack
  obtain ⟨t, ht, henters⟩ := finish_enterTrap hwords s s.opA16 s.opB16
  refine ⟨t, (exec_dispatch_of_ack (highestPending_slot15 hmask) hack).trans ht, ?_, henters⟩
  rw [henters.frame]

/-! ### How DISPATCH ends -/

theorem kRead_of_fault {s s1 : State} {pc va : Word} {f : TransFault}
    (h : translate s .kernel .data .read .word va pc = (s1, .error f)) : kRead s pc va = .stop s1 := by
  simp only [kRead, h]

theorem enterTrap_of_stop {s s1 : State} {V pc : Word} (h : kRead s pc V = .stop s1) (psw ksp : Word) :
    s.enterTrap V pc psw ksp = .stop s1 := by
  simp only [State.enterTrap, h, KernelAccess.andThen]

/-- Settles O35: the first access of the entry stops at the latched fault. -/
theorem dispatchStopsOnAFaultingVector : Obligations.DispatchStopsOnAFaultingVector := by
  unfold Obligations.DispatchStopsOnAFaultingVector
  intro s k slot hset hlow henable heven hslot hr
  obtain rfl := (isSlot_iff _ _ _ _).1 hslot
  have htranslate := translate_eq_of_transCase (s := clearServiced s k) (m := .kernel) (sp := .data) (k := .read)
    (w := .word) (va := s.cfg.trapTable[k].vector) (pc := s.opA16)
    (.nonResident (fun _ _ => heven) (by rw [clearServiced_eq]; exact henable) (by rw [clearServiced_eq]; exact hr))
  rw [exec_dispatch_of_trap (highestPending_trap hset hlow), enterTrap_of_stop (kRead_of_fault htranslate), finish_stop,
    latch_eq, clearServiced_eq]
  exact ⟨_, rfl, rfl, rfl⟩

/-- What DISPATCH can end in: its status, the stop, and after OK the new PSW and a fresh bit 15 (41_trapunit R251,
R252, R255). -/
structure DispatchEnds (psw : Word) (t : State) (a : Answer) : Prop where
  answer : t.answer = some a
  status : a.status = .ok ∨ a.status = .none ∨ a.status = .doubleFault ∨ a.status = .refused
  stopped : t.stopped = true ↔ a.status = .doubleFault
  afterOk : a.status = .ok → ∃ vectorStatus, a.q1 = result16 (newPsw psw vectorStatus) ∧
    t.iplShadow = pswIpl (newPsw psw vectorStatus) ∧
    (t.trapmask.getLsbD 15 = true ↔ t.requestAbove t.iplShadow)

/-- Every way a trap entry ends, for a block that is not stopped. -/
theorem finish_enterTrap_ends {s c : State} (hs : s.stopped = false) (hc : c.stopped = false) (V pc psw ksp : Word) :
    ∃ t a, finish s (c.enterTrap V pc psw ksp) = .next t ∧ DispatchEnds psw t a := by
  have hclosed := accessClosed_keptUntilEnd .dispatch c
  rcases enterTrap_cases (fun s m sp k w va pc h => translate_closed hclosed s m sp k w va pc trivial h)
      (fun s k x pa d h => route_closed hclosed s k x pa d trivial h) c V pc psw ksp (.refl c) with
    ⟨u, newpc, newps, hu, he⟩ | ⟨u, hu, he⟩ | ⟨u, why, hu, he⟩ <;> rw [he]
  · refine ⟨_, _, finish_answer _ _ _, rfl, .inl rfl, ?_, fun _ => ⟨newps, rfl, rfl, reevaluate_bit15 _ _⟩⟩
    exact iff_of_false (Bool.eq_false_iff.1 (hu.stopped.trans hc)) nofun
  · exact ⟨_, _, finish_stop _ _, rfl, .inr (.inr (.inl rfl)), iff_of_true rfl rfl, nofun⟩
  · exact ⟨_, _, finish_refuse _ _ _, rfl, .inr (.inr (.inr rfl)), iff_of_false (Bool.eq_false_iff.1 hs) nofun, nofun⟩

/-- Every way DISPATCH ends, for a block that is not stopped. -/
theorem exec_dispatch_ends {s : State} (hs : s.stopped = false) :
    ∃ t a, exec .dispatch s = .next t ∧ DispatchEnds s.opB16 t a := by
  have hidle {u : State} (hu : u.stopped = false) :
      DispatchEnds s.opB16 { u with answer := some (dispatchNone s) } (dispatchNone s) :=
    ⟨rfl, .inr (.inl rfl), iff_of_false (Bool.eq_false_iff.1 hu) nofun, nofun⟩
  cases hp : s.highestPending with
  | none => exact ⟨_, _, exec_dispatch_of_none hp, hidle hs⟩
  | some k =>
    obtain ⟨hk, -, -⟩ := (highestPending_eq_some s k).1 hp
    by_cases hlt : k < 15
    · rw [exec_dispatch_of_trap (k := ⟨k, hlt⟩) hp]
      exact finish_enterTrap_ends hs (by rw [clearServiced_eq]; exact hs) _ _ _ _
    · obtain rfl : k = 15 := by omega
      rcases acknowledge_cases s (pswIpl s.opB16) with ⟨l, j, -, -, -, ha⟩ | ⟨-, ⟨l, -, -, ha⟩ | ⟨-, ha⟩⟩
      · rw [exec_dispatch_of_ack hp ha]
        exact finish_enterTrap_ends (c := s.setPend l (clearBit (s.pendAt l) j)) hs hs _ _ _ _
      · rw [exec_dispatch_of_ack hp ha]
        exact finish_enterTrap_ends hs hs _ _ _ _
      · exact ⟨_, _, exec_dispatch_of_stale hp ha, hidle hs⟩

/-- Settles O34: by every way DISPATCH ends. -/
theorem dispatchOutcomes : Obligations.DispatchOutcomes := by
  unfold Obligations.DispatchOutcomes
  intro s hs
  obtain ⟨t, a, he, hends⟩ := exec_dispatch_ends hs
  refine ⟨t, a, he, hends.answer, hends.status, hends.stopped, fun hok => ?_⟩
  obtain ⟨status, hq1, hipl, hfresh⟩ := hends.afterOk hok
  have hfield (start len : Nat) (h : start + len ≤ 16) :
      a.q1.extractLsb' start len = (newPsw s.opB16 status).extractLsb' start len := by
    rw [hq1]
    exact BitVec.extractLsb'_setWidth_of_le (by omega)
  refine ⟨?_, ?_, ?_, hfresh⟩
  · rw [hfield 14 2 (by decide), newPsw_mode]
  · rw [hfield 12 2 (by decide), newPsw_previous]
    exact BitVec.extractLsb'_setWidth_of_le (by decide)
  · rw [hfield 5 3 (by decide)]
    exact hipl

end Sys2Proof.Machine
end

section
/-! The marks S.refused and S.config_error: no command reads them (10_state R47). -/

namespace Sys2Proof.Machine

/-! ### The shared operations -/

theorem translate_eraseMarks (s : State) (m : Mode) (sp : Space) (k : Kind) (w : Width) (va pc : Word) :
    translate s.eraseMarks m sp k w va pc =
      ((translate s m sp k w va pc).1.eraseMarks, (translate s m sp k w va pc).2) :=
  translate_relabel id (fun _ => false) id s m sp k w va pc

theorem route_eraseMarks (s : State) (k : Kind) (x : Width) (pa : Nat) (d : Word) :
    route s.eraseMarks k x pa d = (route s k x pa d).map State.eraseMarks :=
  route_relabel id (fun _ => false) id s k x pa d

theorem acknowledge_eraseMarks (s : State) (p : Level) :
    s.eraseMarks.acknowledge p = ((s.acknowledge p).1.eraseMarks, (s.acknowledge p).2) := by
  have hdevice : s.eraseMarks.deviceRequest p = s.deviceRequest p := rfl
  have hsoftware : s.eraseMarks.softwareRequest p = s.softwareRequest p := rfl
  simp only [State.acknowledge, hdevice, hsoftware]
  cases s.deviceRequest p with
  | some lk => rfl
  | none => cases s.softwareRequest p <;> rfl

/-- An access of DISPATCH that ends in another state. -/
def KernelAccess.map (f : State → State) : KernelAccess → KernelAccess
  | .ok s v => .ok (f s) v
  | .stop s => .stop (f s)
  | .refused s why => .refused (f s) why

/-- A command that ends in another state. -/
def Ending.map (f : State → State) : Ending → Ending
  | .answer s a => .answer (f s) a
  | .refuse s why => .refuse (f s) why
  | .stop s => .stop (f s)

/-- What DISPATCH does after an access commutes with a change of the state that it commutes with after each value. -/
theorem andThen_map {f : State → State} {F : State → Word → Ending} (hF : ∀ s v, F (f s) v = (F s v).map f)
    (k : KernelAccess) : (k.map f).andThen F = (k.andThen F).map f := by
  cases k with
  | ok s v => exact hF s v
  | stop s => rfl
  | refused s why => rfl

theorem kRead_eraseMarks (s : State) (pc va : Word) :
    kRead s.eraseMarks pc va = (kRead s pc va).map State.eraseMarks := by
  simp only [kRead, translate_eraseMarks]
  rcases translate s .kernel .data .read .word va pc with ⟨s1, f | pa⟩
  · rfl
  · simp only [route_eraseMarks]
    cases route s1 .read .word pa 0#16 <;> rfl

theorem kWrite_eraseMarks (s : State) (pc va v : Word) :
    kWrite s.eraseMarks pc va v = (kWrite s pc va v).map State.eraseMarks := by
  simp only [kWrite, translate_eraseMarks]
  rcases translate s .kernel .data .write .word va pc with ⟨s1, f | pa⟩
  · rfl
  · simp only [route_eraseMarks]
    cases route s1 .write .word pa v <;> rfl

theorem enterTrap_eraseMarks (s : State) (V pc psw ksp : Word) :
    s.eraseMarks.enterTrap V pc psw ksp = (s.enterTrap V pc psw ksp).map State.eraseMarks := by
  simp only [State.enterTrap, kRead_eraseMarks]
  refine andThen_map (fun s1 _ => ?_) _
  rw [kRead_eraseMarks]
  refine andThen_map (fun s2 _ => ?_) _
  rw [kWrite_eraseMarks]
  refine andThen_map (fun s3 _ => ?_) _
  rw [kWrite_eraseMarks]
  exact andThen_map (fun s4 _ => rfl) _

/-! ### Endings and commands -/

/-- Two outcomes are next states that differ in the two marks alone. -/
def SameButMarks (o o' : Host.Outcome State Fault Refusal) : Prop :=
  ∃ t t', o = .next t ∧ o' = .next t' ∧ t.eraseMarks = t'.eraseMarks

/-- States that differ in the marks alone are answered alike. -/
theorem eraseMarks_withAnswer {s s' : State} (h : s.eraseMarks = s'.eraseMarks) (a : Option Answer) :
    ({ s with answer := a } : State).eraseMarks = ({ s' with answer := a } : State).eraseMarks :=
  congrArg (fun u : State => { u with answer := a }) h

/-- A command that ends alike but for the marks leaves states that differ in the marks alone. -/
theorem finish_sameButMarks (s : State) {e e' : Ending} (h : e.map State.eraseMarks = e'.map State.eraseMarks) :
    SameButMarks (finish s e) (finish s.eraseMarks e') := by
  cases e with
  | answer u a =>
    cases e' with
    | answer u' a' =>
      obtain ⟨hu, rfl⟩ := Ending.answer.inj h
      exact ⟨_, _, rfl, rfl, eraseMarks_withAnswer hu _⟩
    | _ => cases h
  | refuse u why =>
    cases e' with
    | refuse u' why' =>
      obtain ⟨hu, rfl⟩ := Ending.refuse.inj h
      have hcalls : u.devCalls = u'.devCalls := (congrArg State.devCalls hu :)
      have hdraws : u.draws = u'.draws := (congrArg State.draws hu :)
      refine ⟨_, _, rfl, rfl, ?_⟩
      rw [hcalls, hdraws]
      rfl
    | _ => cases h
  | stop u =>
    cases e' with
    | stop u' =>
      have hu : u.eraseMarks = u'.eraseMarks := Ending.stop.inj h
      exact ⟨_, _, rfl, rfl, congrArg
        (fun w : State => { w with stopped := true, answer := some (Answer.bare .doubleFault) }) hu⟩
    | _ => cases h

theorem postNamed_eraseMarks (s : State) (n : TrapName) :
    (s.postNamed n).eraseMarks = (s.eraseMarks.postNamed n).eraseMarks := by
  have hcfg : s.eraseMarks.cfg = s.cfg := rfl
  simp only [State.postNamed, hcfg]
  cases trapSlot s.cfg n <;> rfl

/-- DISPATCH chooses the same event and enters it alike. -/
theorem exec_dispatch_sameButMarks (s : State) : SameButMarks (exec .dispatch s) (exec .dispatch s.eraseMarks) := by
  have hentry (u : State) (V : Word) :
      SameButMarks (finish s (u.enterTrap V s.opA16 s.opB16 s.opC16))
        (finish s.eraseMarks (u.eraseMarks.enterTrap V s.opA16 s.opB16 s.opC16)) := by
    refine finish_sameButMarks s ?_
    rw [enterTrap_eraseMarks]
    cases u.enterTrap V s.opA16 s.opB16 s.opC16 <;> rfl
  cases hp : s.highestPending with
  | none =>
    rw [exec_dispatch_of_none hp, exec_dispatch_of_none (s := s.eraseMarks) hp]
    exact ⟨_, _, rfl, rfl, rfl⟩
  | some k =>
    obtain ⟨hk, -, -⟩ := (highestPending_eq_some s k).1 hp
    by_cases hlt : k < 15
    · rw [exec_dispatch_of_trap (k := ⟨k, hlt⟩) hp, exec_dispatch_of_trap (s := s.eraseMarks) (k := ⟨k, hlt⟩) hp]
      have hclear : clearServiced s.eraseMarks ⟨k, hlt⟩ = (clearServiced s ⟨k, hlt⟩).eraseMarks := by
        rw [clearServiced_eq, clearServiced_eq]
        rfl
      rw [hclear]
      exact hentry _ _
    · obtain rfl : k = 15 := by omega
      have hack := acknowledge_eraseMarks s (pswIpl s.opB16)
      cases ha : s.acknowledge (pswIpl s.opB16) with
      | mk s1 taken =>
        rw [ha] at hack
        cases taken with
        | some a =>
          rw [exec_dispatch_of_ack hp ha, exec_dispatch_of_ack (s := s.eraseMarks) hp hack]
          exact hentry _ _
        | none =>
          rw [exec_dispatch_of_stale hp ha, exec_dispatch_of_stale (s := s.eraseMarks) hp hack]
          exact ⟨_, _, rfl, rfl, rfl⟩

section
variable (s : State) (m : Mode) (sp : Space) (k : Kind) (x : Width)

theorem exec_translate_sameButMarks :
    SameButMarks (exec (.translate m sp k x) s) (exec (.translate m sp k x) s.eraseMarks) := by
  have htr := translate_eraseMarks s m sp k x s.opA16 s.opB16
  cases h : translate s m sp k x s.opA16 s.opB16 with
  | mk s1 result =>
    rw [h] at htr
    cases result with
    | ok pa =>
      rw [exec_translate_of_ok h, exec_translate_of_ok (s := s.eraseMarks) htr]
      exact ⟨_, _, rfl, rfl, rfl⟩
    | error f =>
      rw [exec_translate_of_fault h, exec_translate_of_fault (s := s.eraseMarks) htr]
      exact ⟨_, _, rfl, rfl, rfl⟩

theorem exec_route_sameButMarks : SameButMarks (exec (.route k x) s) (exec (.route k x) s.eraseMarks) := by
  by_cases hpa : s.cfg.physTop ≤ s.opAAddr
  · rw [exec_route_of_badAddress hpa, exec_route_of_badAddress (s := s.eraseMarks) hpa]
    exact ⟨_, _, rfl, rfl, rfl⟩
  · rw [Nat.not_le] at hpa
    have hroute := route_eraseMarks s k x s.opAAddr s.opB16
    cases h : route s k x s.opAAddr s.opB16 with
    | ok u v =>
      rw [h] at hroute
      rw [exec_route_of_ok hpa h, exec_route_of_ok (s := s.eraseMarks) hpa hroute]
      exact ⟨_, _, rfl, rfl, rfl⟩
    | nxm u =>
      rw [h] at hroute
      rw [exec_route_of_nxm hpa h, exec_route_of_nxm (s := s.eraseMarks) hpa hroute]
      exact ⟨_, _, rfl, rfl, rfl⟩
    | refused u why =>
      rw [h] at hroute
      rw [exec_route_of_refused hpa h, exec_route_of_refused (s := s.eraseMarks) hpa hroute]
      exact ⟨_, _, rfl, rfl, rfl⟩

theorem exec_access_sameButMarks :
    SameButMarks (exec (.access m sp k x) s) (exec (.access m sp k x) s.eraseMarks) := by
  have htr := translate_eraseMarks s m sp k x s.opA16 s.opC16
  cases h : translate s m sp k x s.opA16 s.opC16 with
  | mk s1 result =>
    rw [h] at htr
    cases result with
    | error f =>
      rw [exec_access_of_fault h, exec_access_of_fault (s := s.eraseMarks) htr]
      exact ⟨_, _, rfl, rfl, eraseMarks_withAnswer (postNamed_eraseMarks s1 _) _⟩
    | ok pa =>
      have hroute := route_eraseMarks s1 k x pa s.opB16
      cases hr : route s1 k x pa s.opB16 with
      | ok u v =>
        rw [hr] at hroute
        rw [exec_access_of_ok h hr, exec_access_of_ok (s := s.eraseMarks) htr hroute]
        exact ⟨_, _, rfl, rfl, rfl⟩
      | nxm u =>
        rw [hr] at hroute
        rw [exec_access_of_nxm h hr, exec_access_of_nxm (s := s.eraseMarks) htr hroute]
        exact ⟨_, _, rfl, rfl, eraseMarks_withAnswer (postNamed_eraseMarks u _) _⟩
      | refused u why =>
        rw [hr] at hroute
        rw [exec_access_of_refused h hr, exec_access_of_refused (s := s.eraseMarks) htr hroute]
        exact ⟨_, _, rfl, rfl, rfl⟩

theorem exec_devRegister_sameButMarks (l : Level) (n : BitVec 6) :
    SameButMarks (exec (.devRegister l n) s) (exec (.devRegister l n) s.eraseMarks) := by
  by_cases hillegal : s.opCDev = BLOCK ∨ s.opBAddr ≤ s.opAAddr ∨ s.cfg.physTop < s.opBAddr ∨ s.cfg.nslots < n.toNat
  · rw [exec_devRegister_of_illegal hillegal, exec_devRegister_of_illegal (s := s.eraseMarks) hillegal]
    exact ⟨_, _, rfl, rfl, rfl⟩
  · cases hover : s.windows.any (overlaps s.opAAddr s.opBAddr) with
    | true =>
      rw [exec_devRegister_of_overlap hillegal hover, exec_devRegister_of_overlap (s := s.eraseMarks) hillegal hover]
      exact ⟨_, _, rfl, rfl, rfl⟩
    | false =>
      cases hfirst : s.firstSlot l n.toNat with
      | none =>
        rw [exec_devRegister_of_exhausted hillegal hover hfirst,
          exec_devRegister_of_exhausted (s := s.eraseMarks) hillegal hover hfirst]
        exact ⟨_, _, rfl, rfl, rfl⟩
      | some j =>
        simp only [not_or, Nat.not_le, Nat.not_lt] at hillegal
        obtain ⟨hdev, hwindow, htop, hcount⟩ := hillegal
        rw [exec_devRegister_of_firstSlot hdev hwindow htop hcount hover hfirst,
          exec_devRegister_of_firstSlot (s := s.eraseMarks) hdev hwindow htop hcount hover hfirst]
        exact ⟨_, _, rfl, rfl, rfl⟩

end

/-- A command does the same without the marks, the marks apart. -/
theorem exec_sameButMarks (i : Instr) (s : State) : SameButMarks (exec i s) (exec i s.eraseMarks) := by
  cases i with
  | translate m sp k x => exact exec_translate_sameButMarks s m sp k x
  | route k x => exact exec_route_sameButMarks s k x
  | access m sp k x => exact exec_access_sameButMarks s m sp k x
  | snapshot => exact ⟨_, _, rfl, rfl, rfl⟩
  | trapPost k =>
    by_cases hk : k = 15#4
    · subst hk
      rw [exec_trapPost_refused, exec_trapPost_refused]
      exact ⟨_, _, rfl, rfl, rfl⟩
    · rw [exec_trapPost_of_ne hk, exec_trapPost_of_ne hk]
      exact ⟨_, _, rfl, rfl, rfl⟩
  | trapHighest =>
    cases h : s.highestPending with
    | none =>
      rw [exec_trapHighest_of_none h, exec_trapHighest_of_none (s := s.eraseMarks) h]
      exact ⟨_, _, rfl, rfl, rfl⟩
    | some k =>
      rw [exec_trapHighest_of_some h, exec_trapHighest_of_some (s := s.eraseMarks) h]
      exact ⟨_, _, rfl, rfl, rfl⟩
  | dispatch => exact exec_dispatch_sameButMarks s
  | intRequest l k =>
    by_cases ho : s.ownsSlot s.opADev l k = true
    · rw [exec_intRequest_of_owner ho, exec_intRequest_of_owner (s := s.eraseMarks) ho]
      exact ⟨_, _, rfl, rfl, rfl⟩
    · rw [exec_intRequest_of_other ho, exec_intRequest_of_other (s := s.eraseMarks) ho]
      exact ⟨_, _, rfl, rfl, rfl⟩
  | intCancel l k =>
    by_cases ho : s.ownsSlot s.opADev l k = true
    · rw [exec_intCancel_of_owner ho, exec_intCancel_of_owner (s := s.eraseMarks) ho]
      exact ⟨_, _, rfl, rfl, rfl⟩
    · rw [exec_intCancel_of_other ho, exec_intCancel_of_other (s := s.eraseMarks) ho]
      exact ⟨_, _, rfl, rfl, rfl⟩
  | intReevaluate p => exact ⟨_, _, rfl, rfl, rfl⟩
  | intAck p =>
    have hack := acknowledge_eraseMarks s p
    cases ha : s.acknowledge p with
    | mk s1 taken =>
      rw [ha] at hack
      cases taken with
      | some a =>
        rw [exec_intAck_of_some ha, exec_intAck_of_some hack]
        exact ⟨_, _, rfl, rfl, rfl⟩
      | none =>
        rw [exec_intAck_of_none ha, exec_intAck_of_none hack]
        exact ⟨_, _, rfl, rfl, rfl⟩
  | devRegister l n => exact exec_devRegister_sameButMarks s l n
  | devUnregister =>
    by_cases hdev : s.opADev = BLOCK
    · rw [exec_devUnregister_of_block hdev, exec_devUnregister_of_block (s := s.eraseMarks) hdev]
      exact ⟨_, _, rfl, rfl, rfl⟩
    · rw [exec_devUnregister_of_device hdev, exec_devUnregister_of_device (s := s.eraseMarks) hdev]
      exact ⟨_, _, rfl, rfl, rfl⟩
  | reset => exact ⟨_, _, rfl, rfl, rfl⟩

/-- States that differ in the marks alone are performed alike. -/
theorem exec_sameButMarks_of_eraseMarks {s s' t : State} (h : s.eraseMarks = s'.eraseMarks) {i : Instr}
    (he : exec i s = .next t) : ∃ t', exec i s' = .next t' ∧ t.eraseMarks = t'.eraseMarks := by
  obtain ⟨u, u0, hu, hu0, hsame⟩ := exec_sameButMarks i s
  obtain ⟨v, v0, hv, hv0, hsame'⟩ := exec_sameButMarks i s'
  rw [h, hv0] at hu0
  rw [hu] at he
  cases he
  cases hu0
  exact ⟨v, hv, hsame.trans hsame'.symm⟩

/-- Settles O58: a step looks at no mark but S.stopped, and what it performs looks at none. -/
theorem marksDoNotInfluenceTheBlock : Obligations.MarksDoNotInfluenceTheBlock := by
  unfold Obligations.MarksDoNotInfluenceTheBlock
  intro s s' t h hstep
  have hstopped : s.stopped = s'.stopped := (congrArg State.stopped h :)
  have hcommands : s.commands = s'.commands := (congrArg State.commands h :)
  by_cases hs : s.stopped = true
  · rw [step_of_stopped hs] at hstep
    cases hstep
  · rw [Bool.not_eq_true] at hs
    cases hc : s.commands with
    | nil =>
      rw [step_of_idle hs hc] at hstep
      cases hstep
      exact ⟨s', step_of_idle (hstopped ▸ hs) (hcommands ▸ hc), h⟩
    | cons c rest =>
      have haccept : (s.accept c rest).eraseMarks = (s'.accept c rest).eraseMarks :=
        congrArg (fun u : State => u.accept c rest) h
      rw [step_of_presented hs hc] at hstep
      rw [step_of_presented (hstopped ▸ hs) (hcommands ▸ hc)]
      cases hd : decode c.cw with
      | ok i =>
        rw [perform_of_ok hd] at hstep ⊢
        exact exec_sameButMarks_of_eraseMarks haccept hstep
      | error e =>
        rw [perform_of_error hd] at hstep ⊢
        cases hstep
        exact ⟨_, rfl, eraseMarks_withAnswer haccept _⟩

end Sys2Proof.Machine
end
